-- ==== Sys2Proof/Word.lean ====
section
/-! DEFINITION. The value domains of R20 that are machine words or exact numbers. -/

namespace Sys2Proof

/-- `Byte`, 0..255 (R20; BYTE_BITS = 8 in R8). -/
abbrev Byte := BitVec 8

/-- `U16`, 0..65535: MAGIC and CRC (R20; CRC_BITS = 16 in R8). -/
abbrev U16 := BitVec 16

/-- `Code`, 0..63: an attenuation code (R20; CODE_BITS = 6 in R8). -/
abbrev Code := BitVec 6

/-- `Db`: an exact rational number of dB (R20, D3). -/
abbrev Db := Rat

/-- The operation-select field OP[2:0] of a multiplexed request port (R71). -/
abbrev OpSel := BitVec 3

/-- The 24-bit header H of a frame (R61). -/
abbrev Header := BitVec 24

end Sys2Proof
end

