-- ==== Sys2Proof/Machine/Bits.lean ====
section
/-! DEFINITION. Byte order and the accesses to a byte list: the primitives of R10 to R12. -/

namespace Sys2Proof.Machine

/-- `w[15:8]` (R10). -/
def hiByte (w : U16) : Byte := w.extractLsb' 8 8

/-- `w[7:0]` (R10). -/
def loByte (w : U16) : Byte := w.extractLsb' 0 8

/-- `{hi, lo} = hi * 256 + lo` (R10). -/
def joinBytes (hi lo : Byte) : U16 := BitVec.ofNat 16 (hi.toNat * 256 + lo.toNat)

/-- `MemRead(F, off, 1)` (R12). Every use is guarded so that `off` lies in `F` (R41); the value outside
is never used (DESIGN CHOICE, safe: assumption log, entry 16). -/
def memRead8 (F : List Byte) (off : Nat) : Byte := F.getD off 0

/-- `MemRead(F, off, 2)`, big-endian (R12, R42). -/
def memRead16 (F : List Byte) (off : Nat) : U16 := joinBytes (memRead8 F off) (memRead8 F (off + 1))

/-- `MemWrite(F, off, 2, v)`: `v[15:8]` at `off` and `v[7:0]` at `off+1` (R12, R43). -/
def memWrite16 (F : List Byte) (off : Nat) (v : U16) : List Byte :=
  (F.set off (hiByte v)).set (off + 1) (loByte v)

end Sys2Proof.Machine
end

