-- ==== Sys2Proof/Machine/Crc.lean ====
section
/-! DEFINITION. The Checksum Engine: CRC-16/MODBUS (R100 to R105). -/

namespace Sys2Proof.Machine

/-- The polynomial 0xA001, hardwired (R2, R23). -/
def crcPoly : U16 := 0xA001#16

/-- The initial value 0xFFFF, hardwired (R23, R101). -/
def crcInit : U16 := 0xFFFF#16

/-- `crc_round` (R103): shift right by one, then XOR the polynomial if the bit shifted out was 1. -/
def crcRound (acc : U16) : U16 :=
  if acc.getLsbD 0 then (acc >>> 1) ^^^ crcPoly else acc >>> 1

/-- `k` rounds one after another. -/
def crcRounds : Nat → U16 → U16
  | 0, acc => acc
  | k + 1, acc => crcRounds k (crcRound acc)

/-- `crc_byte` (R102): XOR the byte into the low byte of the accumulator, then eight rounds. -/
def crcByte (acc : U16) (b : Byte) : U16 := crcRounds 8 (acc ^^^ b.setWidth 16)

/-- The accumulator after the bytes of a list, in order (R102, R105). -/
def crcFold (acc : U16) (bs : List Byte) : U16 := bs.foldl crcByte acc

/-- `crc16(buf, n)` for `n <= len(buf)` (R105). -/
def crc16 (buf : List Byte) (n : Nat) : U16 := crcFold crcInit (buf.take n)

/-- The operation with its caller contract: no value when `n > len(buf)` (R100, R214). -/
def crc16Checked (buf : List Byte) (n : Nat) : Option U16 :=
  if n ≤ buf.length then some (crc16 buf n) else none

end Sys2Proof.Machine
end

