-- ==== Sys2Proof/Config.lean ====
section
/-! DEFINITION. What the spec leaves open: the parameter TIE_RULE, and the free values the hidden
registers hold between transactions. None of the constants has a body a proof could see. -/

namespace Sys2Proof

/-- How `round_T` breaks an exact tie (R121, D4). -/
inductive TieRule where
  /-- The even neighbour (the default of R8). -/
  | halfEven
  /-- The neighbour farther from zero. -/
  | halfAway
  deriving DecidableEq, Repr, Inhabited

/-- TIE_RULE of R8, OPEN. DESIGN CHOICE, safe: an opaque constant, so that no proof can assume
either rule, as N5 asks (assumption log, entry 1). -/
opaque Config.tieRule : TieRule

/-- The value the hidden CRC accumulator holds after the transaction numbered by the argument:
unspecified (R32), any value (I11). DESIGN CHOICE, safe (assumption log, entry 6). -/
opaque Config.freeAcc : Nat → U16

/-- The contents of the hidden serializer buffer after the transaction numbered by the argument:
unspecified (R32), any value (I11). DESIGN CHOICE, safe (assumption log, entry 6). -/
opaque Config.freeBuf : Nat → List Byte

end Sys2Proof
end

