-- ==== Sys2Proof/Syntax.lean ====
section
/-! DEFINITION. The operands, the requests as they stand on the ports, and the one inductive of
instructions: one constructor for each row of spec/opcode_table.json. -/

namespace Sys2Proof

/-- `Kind` (R20): the command type, and the label of an acknowledgement. -/
inductive Kind where
  | read
  | write
  | save
  deriving DecidableEq, Repr

/-- One entry of the code table (R23, R64). Every request layout is MAGIC, CODE, payload, CRC and every
acknowledgement layout is ACK7, so the lengths name the layouts. -/
structure CodeEntry where
  code : Byte
  kind : Kind
  /-- Request frame length: 5 for REQ5, 7 for REQ7. -/
  reqLen : Nat
  /-- Acknowledgement frame length: 7 for ACK7. -/
  ackLen : Nat
  /-- Expected number of ENCODE arguments. -/
  args : Nat
  deriving DecidableEq, Repr

/-- `Operand` (R20): an argument already converted outside the block (R6). -/
inductive Operand where
  /-- A token that denotes the finite number `q`. -/
  | num (q : Db)
  /-- A token that is not a finite number (D13). -/
  | notNum
  deriving DecidableEq, Repr

/-- An operand as the port carries it. OPERAND_REPR is open (R8): whether it can express a given
operand exactly comes with the request. DESIGN CHOICE, safe (assumption log, entry 2). -/
inductive RawOperand where
  /-- The port carries this operand exactly. -/
  | exact (v : Operand)
  /-- The host's operand is `q`, which OPERAND_REPR cannot express exactly (R215 (b), I8). -/
  | inexact (q : Db)
  deriving DecidableEq, Repr

/-- The operand lanes of a multiplexed request port: the request ports of all five channels side by side
(R25 to R27, R29, R30), of which an operation reads its own only. R71 gives the OP field and does not say
how such a port carries operands. DESIGN CHOICE, safe (assumption log, entry 10). -/
structure Lanes where
  buf : List Byte
  n : Nat
  cmd : Option Byte
  args : List RawOperand
  rx : List Byte
  v : RawOperand
  c : Code
  deriving DecidableEq, Repr

/-- A request as it stands on a port when it has been accepted. -/
inductive Request where
  /-- Channel CRC16 (R25). -/
  | crc16 (buf : List Byte) (n : Nat)
  /-- Channel ENCODE (R26). -/
  | encode (cmd : Option Byte) (args : List RawOperand)
  /-- Channel DECODE (R27). -/
  | decode (rx : List Byte)
  /-- Channel D2C (R29). -/
  | d2c (v : RawOperand)
  /-- Channel C2D (R30). -/
  | c2d (c : Code)
  /-- One port for all five operations, selected by OP (R71). Its response is delivered on the selected
  operation's own response port. DESIGN CHOICE, safe (assumption log, entry 10). -/
  | mux (op : OpSel) (lanes : Lanes)
  /-- Header and payload handed to the serializer unit (R130). DESIGN CHOICE, safe: no port of the
  spec carries it; it is how a REQ row of the table is put to the model (assumption log, entry 12). -/
  | serializer (p : List Byte)
  deriving DecidableEq, Repr

/-- Why a request is no instruction: it is refused under this name. -/
inductive Reject where
  /-- OP is 0b101, 0b110 or 0b111 (R71, R215 (a), I9). -/
  | reservedOp (op : OpSel)
  /-- An operand that OPERAND_REPR cannot express exactly (R215 (b), I8). -/
  | operandNotExpressible
  /-- Bytes handed to the serializer that are no header and payload of R62. -/
  | notARequestLayout
  deriving DecidableEq, Repr

/-- The instructions: one constructor for each row of spec/opcode_table.json (R72). -/
inductive Instr where
  /-- CMD_R (R132): a command line whose leading byte selects Read. -/
  | cmdR (cmd : Byte) (args : List Operand)
  /-- CMD_W (R133): a command line whose leading byte selects Write. -/
  | cmdW (cmd : Byte) (args : List Operand)
  /-- CMD_S (R134): a command line whose leading byte selects Save. -/
  | cmdS (cmd : Byte) (args : List Operand)
  /-- REQ_READ (R132, layout REQ5 of R62); its CRC field is computed. -/
  | reqRead
  /-- REQ_WRITE (R133, layout REQ7 of R62); its CRC field is computed. -/
  | reqWrite (attA attB : Code)
  /-- REQ_SAVE (R134, layout REQ5 of R62); its CRC field is computed. -/
  | reqSave
  /-- ACK_READ (R168): a chunk with header AA 55 01; `tail` is what follows the header. -/
  | ackRead (tail : List Byte)
  /-- ACK_WRITE (R169): a chunk with header AA 55 02; `tail` is what follows the header. -/
  | ackWrite (tail : List Byte)
  /-- ACK_SAVE (R170): a chunk with header AA 55 08; `tail` is what follows the header. -/
  | ackSave (tail : List Byte)
  /-- OP_CRC16 (R100). -/
  | opCrc16 (buf : List Byte) (n : Nat)
  /-- OP_ENCODE (R120). -/
  | opEncode (cmd : Option Byte) (args : List Operand)
  /-- OP_DECODE (R160). -/
  | opDecode (rx : List Byte)
  /-- OP_D2C (R122). -/
  | opD2c (v : Operand)
  /-- OP_C2D (R171). -/
  | opC2d (c : Code)
  deriving DecidableEq, Repr

end Sys2Proof
end

