-- ==== Sys2Proof/Machine/State.lean ====
section
/-! DEFINITION. The responses of the five channels, why the machine stops, the state and its reset. -/

namespace Sys2Proof.Machine

/-! ### Responses -/

/-- `EncStatus` (R20): the status of an ENCODE or D2C response. -/
inductive EncStatus where
  | ok
  | invalidArgument
  | unknownCommand
  deriving DecidableEq, Repr

/-- `DecStatus` (R20): the status of a DECODE response. -/
inductive DecStatus where
  | ok
  | incomplete
  | badMagic
  | unknownCode
  | malformedFrame
  | checksumMismatch
  deriving DecidableEq, Repr

/-- The error kinds ENCODE and D2C raise (R20, R203). -/
inductive EncError where
  | invalidArgument
  | unknownCommand
  deriving DecidableEq, Repr

/-- The error kinds DECODE raises (R20, R203). -/
inductive DecError where
  | incomplete
  | badMagic
  | unknownCode
  | malformedFrame
  | checksumMismatch
  deriving DecidableEq, Repr

/-- An acknowledgement record (R28, C2). -/
structure Ack where
  magic : U16
  code : Byte
  kind : Kind
  attA : Code
  attB : Code
  dbA : Db
  dbB : Db
  crc : U16
  deriving DecidableEq, Repr

/-- The ENCODE response (R26). -/
structure EncResp where
  status : EncStatus
  tx : List Byte
  deriving DecidableEq, Repr

/-- The DECODE response (R28): `ack` is present only when the status is OK. -/
structure DecResp where
  status : DecStatus
  ack : Option Ack
  deriving DecidableEq, Repr

/-- The D2C response (R29): `code` is present only when the status is OK. -/
structure D2cResp where
  status : EncStatus
  code : Option Code
  deriving DecidableEq, Repr

/-! ### Why the machine stops -/

/-- The block's one model fault (R214). -/
inductive Fault where
  /-- Raised by OP_CRC16 when `n > len(buf)`: the caller broke its contract, there is no response, and the
  run stays faulted (R214, I1, D15). Safe: it errs toward unprovable. -/
  | crcLengthContract
  deriving DecidableEq, Repr

/-- Why a request has no meaning. -/
inductive Refusal where
  /-- An instruction without a meaning yet, raised by `exec` by name. Safe. No arm raises it. -/
  | notModelled (mnemonic : String)
  /-- Raised by `step` for a multiplexed request whose OP is 5, 6 or 7 (R71, R215 (a), I9). Safe. -/
  | reservedOp (op : OpSel)
  /-- Raised by `step` for a request with an operand that OPERAND_REPR cannot express exactly
  (R215 (b), D3, I8). Safe. -/
  | operandNotExpressible
  /-- Raised by `step` for bytes handed to the serializer that are no header and payload of R62. Safe:
  ENCODE never produces such bytes, and no port carries them (assumption log, entry 12). -/
  | notARequestLayout
  deriving DecidableEq, Repr

/-! ### The state -/

/-- The machine between two transactions: requests accepted and not answered, what the response ports
show, and the hidden registers (R24 to R32). A port that is `none` carries no response (R32, R240). -/
structure State where
  /-- Accepted, unanswered requests, the oldest first. DESIGN CHOICE (assumption log, entry 3). -/
  pending : List Request
  /-- The model's own record of the run: the requests a reset abandoned, which are never answered (R230).
  Only the end of a run looks at it (R242; assumption log, entry 21). -/
  abandoned : List Request
  /-- The CRC16 response (R25). DESIGN CHOICE: ports keep their response (assumption log, entry 5). -/
  crc16Port : Option U16
  /-- The ENCODE response (R26). -/
  encodePort : Option EncResp
  /-- The DECODE response (R28). -/
  decodePort : Option DecResp
  /-- The D2C response (R29). -/
  d2cPort : Option D2cResp
  /-- The C2D response (R30). -/
  c2dPort : Option Db
  /-- The Checksum Engine's hidden accumulator (R31). Nothing reads it: every computation starts from
  0xFFFF (R101). -/
  crcAcc : U16
  /-- The serializer's hidden frame buffer (R31). Nothing reads it. -/
  serBuf : List Byte
  /-- The model's own counter: where the free values of the hidden registers are taken. -/
  fresh : Nat
  deriving DecidableEq, Repr

/-- The block right after reset (R32): no request accepted, no response on any port. The hidden
registers are unspecified there (R32); their values here are a DESIGN CHOICE, unsafe (assumption log,
entries 6 and 7). No request has been abandoned (entry 21). -/
def State.reset : State where
  pending := []
  abandoned := []
  crc16Port := none
  encodePort := none
  decodePort := none
  d2cPort := none
  c2dPort := none
  crcAcc := 0#16
  serBuf := []
  fresh := 0

end Sys2Proof.Machine
end

