-- ==== Sys2Proof/Machine/Flags.lean ====
section
/-! DEFINITION. Statuses, which take the place of flags (R22): the status an error kind gives, and the
numbers statuses have on a port (R201, R202). -/

namespace Sys2Proof.Machine

/-- The status that reports an ENCODE or D2C error (R200, R201). -/
def encErrorStatus : EncError → EncStatus
  | .invalidArgument => .invalidArgument
  | .unknownCommand => .unknownCommand

/-- The status that reports a DECODE error (R200, R202). -/
def decErrorStatus : DecError → DecStatus
  | .incomplete => .incomplete
  | .badMagic => .badMagic
  | .unknownCode => .unknownCode
  | .malformedFrame => .malformedFrame
  | .checksumMismatch => .checksumMismatch

/-- The 2-bit field `enc_status` (R201). -/
def encStatusBits : EncStatus → BitVec 2
  | .ok => 0
  | .invalidArgument => 1
  | .unknownCommand => 2

/-- The 3-bit field `dec_status` (R202). -/
def decStatusBits : DecStatus → BitVec 3
  | .ok => 0
  | .incomplete => 1
  | .badMagic => 2
  | .unknownCode => 3
  | .malformedFrame => 4
  | .checksumMismatch => 5

end Sys2Proof.Machine
end

