-- ==== Sys2Proof/Machine/Ops.lean ====
section
/-! DEFINITION. The named operations on the ports: accepting a request, turning a result or a raised
error into a response, delivering the response, and reset. There are no traps (R212): an error is the
error branch of a result, and it becomes a response with a status and no data (R12, R200). -/

namespace Sys2Proof.Machine

/-! ### Responses from results -/

/-- The ENCODE response of a result: on an error, the error's status and no bytes (R131, R200). -/
def encResponse : Except EncError (List Byte) → EncResp
  | .ok tx => ⟨.ok, tx⟩
  | .error e => ⟨encErrorStatus e, []⟩

/-- The DECODE response of a result: on an error, the error's status and no record (R200, R212). -/
def decResponse : Except DecError Ack → DecResp
  | .ok ack => ⟨.ok, some ack⟩
  | .error e => ⟨decErrorStatus e, none⟩

/-- The D2C response of a result: on an error, the error's status and no code (R200, R212). -/
def d2cResponse : Except EncError Code → D2cResp
  | .ok c => ⟨.ok, some c⟩
  | .error e => ⟨encErrorStatus e, none⟩

/-! ### Delivering a response: the whole effect of a transaction -/

/-- Deliver a CRC16 response (R25). The engine's accumulator is left unspecified (R32, I11); that the frame
buffer stays as it is is a DESIGN CHOICE, unsafe (assumption log, entry 6). -/
def deliverCrc16 (crc : U16) (s : State) : State :=
  { s with crc16Port := some crc, crcAcc := Config.freeAcc s.fresh, fresh := s.fresh + 1 }

/-- Deliver an ENCODE response (R26). Accumulator and frame buffer are left unspecified (R32, I11). -/
def deliverEncode (r : EncResp) (s : State) : State :=
  { s with encodePort := some r, crcAcc := Config.freeAcc s.fresh,
           serBuf := Config.freeBuf s.fresh, fresh := s.fresh + 1 }

/-- Deliver a DECODE response (R28). The engine's accumulator is left unspecified (R32, I11); that the frame
buffer stays as it is is a DESIGN CHOICE, unsafe (assumption log, entry 6). -/
def deliverDecode (r : DecResp) (s : State) : State :=
  { s with decodePort := some r, crcAcc := Config.freeAcc s.fresh, fresh := s.fresh + 1 }

/-- Deliver a D2C response (R29). D2C uses neither engine nor serializer; that their hidden registers stay as
they are is a DESIGN CHOICE, unsafe (assumption log, entry 6). -/
def deliverD2c (r : D2cResp) (s : State) : State := { s with d2cPort := some r }

/-- Deliver a C2D response (R30). C2D uses neither engine nor serializer; that their hidden registers stay as
they are is a DESIGN CHOICE, unsafe (assumption log, entry 6). -/
def deliverC2d (db : Db) (s : State) : State := { s with c2dPort := some db }

/-! ### The host's side -/

/-- The block accepts a request of the host (R24, R234): it is answered after those accepted before. -/
def State.accept (s : State) (r : Request) : State := { s with pending := s.pending ++ [r] }

/-- Reset while the block runs (R230): every channel idle, accepted requests abandoned, no response on
any port; the hidden registers unspecified (R32, I11); the constants are no part of the state. The run's
record keeps what was abandoned (R242; assumption log, entry 21). -/
def State.afterReset (s : State) : State :=
  { State.reset with abandoned := s.abandoned ++ s.pending, crcAcc := Config.freeAcc s.fresh,
                     serBuf := Config.freeBuf s.fresh, fresh := s.fresh + 1 }

end Sys2Proof.Machine
end

