-- ==== Sys2Proof/Machine/Operands.lean ====
section
/-! DEFINITION. The field mapper: dB to code with its rounding (R121, R122), and code to dB (R171). -/

namespace Sys2Proof.Machine

/-- `round_T(t)` (R121), with TIE_RULE as an argument. -/
def roundT (tie : TieRule) (t : Rat) : Int :=
  let f := t.floor
  let d := t - f
  if d < 1 / 2 then f
  else if 1 / 2 < d then f + 1
  else
    match tie with
    | .halfEven => if f % 2 = 0 then f else f + 1
    | .halfAway => f + 1

/-- `dbToCode(v)` (R122): the range [0.0, 31.5], both ends included, then `round_T(2 * q)`. -/
def dbToCode (tie : TieRule) : Operand → Except EncError Code
  | .notNum => .error .invalidArgument
  | .num q => if q < 0 ∨ 63 / 2 < q then .error .invalidArgument
              else .ok (BitVec.ofInt 6 (roundT tie (2 * q)))

/-- `codeToDb(c) = c / 2`, exact (R171). -/
def codeToDb (c : Code) : Db := (c.toNat : Rat) / 2

end Sys2Proof.Machine
end

