-- ==== Sys2Proof/Machine/Channels.lean ====
section
/-! DEFINITION. The meanings of OP_CRC16, OP_D2C and OP_C2D. -/

namespace Sys2Proof.Machine

/-- OP_CRC16 (R100); a request that breaks the caller's contract is the fault of R214. -/
def execOpCrc16 (buf : List Byte) (n : Nat) (s : State) : Host.Outcome State Fault Refusal :=
  match crc16Checked buf n with
  | some crc => .next (deliverCrc16 crc s)
  | none => .fault .crcLengthContract

/-- OP_D2C (R122). -/
def execOpD2c (v : Operand) (s : State) : Host.Outcome State Fault Refusal :=
  .next (deliverD2c (d2cResponse (dbToCode Config.tieRule v)) s)

/-- OP_C2D (R171). -/
def execOpC2d (c : Code) (s : State) : Host.Outcome State Fault Refusal :=
  .next (deliverC2d (codeToDb c) s)

end Sys2Proof.Machine
end

