-- ==== Sys2Proof/Machine/Frame.lean ====
section
/-! DEFINITION. The fixed-layout serializer (R130) and the headers of the frames it builds (R62). -/

namespace Sys2Proof.Machine

/-- MAGIC 0xAA55, hardwired (R3, R23). -/
def magic : U16 := 0xAA55#16

/-- The first three bytes of any frame: MAGIC, high byte first, then CODE (R60, R61). -/
def frameHeader (code : Byte) : List Byte := [hiByte magic, loByte magic, code]

/-- `serialize(P)` (R130): append a CRC field of zeros, then overwrite it, high byte first, with the
CRC of all the bytes before it. -/
def serialize (P : List Byte) : List Byte :=
  let F := P ++ [0x00#8, 0x00#8]
  memWrite16 F (F.length - 2) (crc16 F (F.length - 2))

end Sys2Proof.Machine
end

