-- ==== Sys2Proof/WellFormed.lean ====
section
/-! DEFINITION. What the encodings ask of an instruction beyond the types of its fields: the command
byte of a CMD row matches the row's match value under the row's mask (R66). -/

namespace Sys2Proof

/-- `(b & 0xDF) = m`, the match of a token row (R66). -/
def tokenMatches (m b : Byte) : Bool := (b &&& 0xDF#8) == m

/-- The instruction is one that the table's encodings can name. The other rows need no check: their
fields take exactly the values the encodings admit. -/
def Instr.wellFormed : Instr → Bool
  | .cmdR cmd _ => tokenMatches 0x52#8 cmd
  | .cmdW cmd _ => tokenMatches 0x57#8 cmd
  | .cmdS cmd _ => tokenMatches 0x53#8 cmd
  | .reqRead => true
  | .reqWrite _ _ => true
  | .reqSave => true
  | .ackRead _ => true
  | .ackWrite _ => true
  | .ackSave _ => true
  | .opCrc16 _ _ => true
  | .opEncode _ _ => true
  | .opDecode _ => true
  | .opD2c _ => true
  | .opC2d _ => true

end Sys2Proof
end

