-- ==== Sys2Proof/Decode.lean ====
section
/-! DEFINITION. The encoding tables (R61 to R66, R71), the decoder from an accepted request to an
instruction, total and rejecting by name, and after it the encoder written from the same tables. -/

namespace Sys2Proof

open Sys2Proof.Machine

/-! ### The tables -/

/-- The code table, the block's one constant table (R23, R64). -/
def codeTable : List CodeEntry :=
  [⟨0x01#8, .read, 5, 7, 0⟩, ⟨0x02#8, .write, 7, 7, 2⟩, ⟨0x08#8, .save, 5, 7, 0⟩]

/-- The entry of a code byte, if the code table has one (R64, R69 (a)). -/
def lookupCode (code : Byte) : Option CodeEntry := codeTable.find? (fun e => e.code == code)

/-- The code byte of a kind (R64). -/
def codeOf : Kind → Byte
  | .read => 0x01#8
  | .write => 0x02#8
  | .save => 0x08#8

/-- `discriminate(b)` (R123, R66): the kind the leading token's first byte selects. -/
def discriminate (b : Byte) : Option Kind :=
  if tokenMatches 0x52#8 b then some .read
  else if tokenMatches 0x57#8 b then some .write
  else if tokenMatches 0x53#8 b then some .save
  else none

/-- The header and payload of a request frame (R62): the frame without its CRC field. -/
def requestPayload : Kind → Code → Code → List Byte
  | .read, _, _ => frameHeader 0x01#8
  | .save, _, _ => frameHeader 0x08#8
  | .write, a, b => frameHeader 0x02#8 ++ [a.setWidth 8, b.setWidth 8]

/-- A frame whose header is recognised (R61): its kind and the bytes after the header. -/
def recognise : List Byte → Option (Kind × List Byte)
  | m1 :: m0 :: code :: tail =>
    if joinBytes m1 m0 = magic then (lookupCode code).map (fun e => (e.kind, tail)) else none
  | _ => none

/-! ### The decoder -/

/-- The operand a port carries, if it can (R215 (b)). -/
def RawOperand.value : RawOperand → Option Operand
  | .exact v => some v
  | .inexact _ => none

/-- All operands of a list, if the port carries every one of them (R215 (b)). -/
def rawValues : List RawOperand → Option (List Operand)
  | [] => some []
  | r :: rs =>
    match r.value, rawValues rs with
    | some v, some vs => some (v :: vs)
    | _, _ => none

/-- A command line (R66): the row its leading byte selects, and OP_ENCODE where it selects none. -/
def decodeLine (cmd : Option Byte) (args : List Operand) : Instr :=
  match cmd with
  | none => .opEncode none args
  | some b =>
    match discriminate b with
    | some .read => .cmdR b args
    | some .write => .cmdW b args
    | some .save => .cmdS b args
    | none => .opEncode (some b) args

/-- A received chunk (R61): the ACK row its header selects, and OP_DECODE where it selects none. -/
def decodeChunk (rx : List Byte) : Instr :=
  match recognise rx with
  | some (.read, tail) => .ackRead tail
  | some (.write, tail) => .ackWrite tail
  | some (.save, tail) => .ackSave tail
  | none => .opDecode rx

/-- Header and payload of a request frame (R62): exactly the three layouts, bits [7:6] of the ATT
bytes zero (R65). -/
def decodePayload (p : List Byte) : Except Reject Instr :=
  match recognise p with
  | some (.read, []) => .ok .reqRead
  | some (.save, []) => .ok .reqSave
  | some (.write, [a, b]) =>
    if a.toNat ≤ 63 ∧ b.toNat ≤ 63 then .ok (.reqWrite (a.setWidth 6) (b.setWidth 6))
    else .error .notARequestLayout
  | _ => .error .notARequestLayout

/-- The instruction of a line whose operands came through the port, or the refusal of R215 (b). -/
def decodeLineRaw (cmd : Option Byte) (args : List RawOperand) : Except Reject Instr :=
  match rawValues args with
  | some vs => .ok (decodeLine cmd vs)
  | none => .error .operandNotExpressible

/-- OP_ENCODE with the operands of the port, or the refusal of R215 (b). -/
def decodeEncodeRaw (cmd : Option Byte) (args : List RawOperand) : Except Reject Instr :=
  match rawValues args with
  | some vs => .ok (.opEncode cmd vs)
  | none => .error .operandNotExpressible

/-- OP_D2C with the operand of the port, or the refusal of R215 (b). -/
def decodeD2cRaw (v : RawOperand) : Except Reject Instr :=
  match v.value with
  | some x => .ok (.opD2c x)
  | none => .error .operandNotExpressible

/-- The operation select of R71: 0 CRC16, 1 ENCODE, 2 DECODE, 3 D2C, 4 C2D; 5, 6 and 7 reserved. The
operation takes its operands from its own lanes and answers as the same request on its own channel does
(DESIGN CHOICE, safe: assumption log, entry 10). -/
def decodeMux (op : OpSel) (l : Lanes) : Except Reject Instr :=
  if op = 0b000#3 then .ok (.opCrc16 l.buf l.n)
  else if op = 0b001#3 then decodeEncodeRaw l.cmd l.args
  else if op = 0b010#3 then .ok (.opDecode l.rx)
  else if op = 0b011#3 then decodeD2cRaw l.v
  else if op = 0b100#3 then .ok (.opC2d l.c)
  else .error (.reservedOp op)

/-- The instruction an accepted request is, or why it is none. Total. A line or a chunk is read as the
table's most specific row (DESIGN CHOICE, safe: assumption log, entry 11). -/
def decode : Request → Except Reject Instr
  | .crc16 buf n => .ok (.opCrc16 buf n)
  | .encode cmd args => decodeLineRaw cmd args
  | .decode rx => .ok (decodeChunk rx)
  | .d2c v => decodeD2cRaw v
  | .c2d c => .ok (.opC2d c)
  | .mux op l => decodeMux op l
  | .serializer p => decodePayload p

/-- A whole request frame as it stands on the wire (R62): its layout and its CRC field both right. -/
def decodeRequestFrame (F : List Byte) : Option Instr :=
  let p := F.take (F.length - 2)
  if serialize p = F then (decodePayload p).toOption else none

/-! ### The encoder -/

/-- Lanes on which nothing is presented. -/
def Lanes.zero : Lanes := ⟨[], 0, none, [], [], .exact (.num 0), 0#6⟩

/-- The request that is this instruction: its token, frame or OP field, with its operands on the ports. -/
def encode : Instr → Request
  | .cmdR cmd args => .encode (some cmd) (args.map RawOperand.exact)
  | .cmdW cmd args => .encode (some cmd) (args.map RawOperand.exact)
  | .cmdS cmd args => .encode (some cmd) (args.map RawOperand.exact)
  | .reqRead => .serializer (requestPayload .read 0#6 0#6)
  | .reqWrite a b => .serializer (requestPayload .write a b)
  | .reqSave => .serializer (requestPayload .save 0#6 0#6)
  | .ackRead tail => .decode (frameHeader 0x01#8 ++ tail)
  | .ackWrite tail => .decode (frameHeader 0x02#8 ++ tail)
  | .ackSave tail => .decode (frameHeader 0x08#8 ++ tail)
  | .opCrc16 buf n => .mux 0b000#3 { Lanes.zero with buf := buf, n := n }
  | .opEncode cmd args =>
    .mux 0b001#3 { Lanes.zero with cmd := cmd, args := args.map RawOperand.exact }
  | .opDecode rx => .mux 0b010#3 { Lanes.zero with rx := rx }
  | .opD2c v => .mux 0b011#3 { Lanes.zero with v := .exact v }
  | .opC2d c => .mux 0b100#3 { Lanes.zero with c := c }

/-- The bytes of a request frame on the wire (R62), for a REQ row. -/
def encodeRequestFrame : Instr → Option (List Byte)
  | .reqRead => some (serialize (requestPayload .read 0#6 0#6))
  | .reqWrite a b => some (serialize (requestPayload .write a b))
  | .reqSave => some (serialize (requestPayload .save 0#6 0#6))
  | _ => none

/-! ### The rows of spec/opcode_table.json -/

/-- A row's width in bits, mask and match value (R66, R61, R71). -/
structure OpcodeRow where
  width : Nat
  mask : Nat
  value : Nat
  deriving DecidableEq, Repr

/-- The row of an instruction, as spec/opcode_table.json gives it. -/
def opcodeRow : Instr → OpcodeRow
  | .cmdR _ _ => ⟨8, 0xDF, 0x52⟩
  | .cmdW _ _ => ⟨8, 0xDF, 0x57⟩
  | .cmdS _ _ => ⟨8, 0xDF, 0x53⟩
  | .reqRead => ⟨24, 0xFFFFFF, 0xAA5501⟩
  | .reqWrite _ _ => ⟨24, 0xFFFFFF, 0xAA5502⟩
  | .reqSave => ⟨24, 0xFFFFFF, 0xAA5508⟩
  | .ackRead _ => ⟨24, 0xFFFFFF, 0xAA5501⟩
  | .ackWrite _ => ⟨24, 0xFFFFFF, 0xAA5502⟩
  | .ackSave _ => ⟨24, 0xFFFFFF, 0xAA5508⟩
  | .opCrc16 _ _ => ⟨3, 0b111, 0b000⟩
  | .opEncode _ _ => ⟨3, 0b111, 0b001⟩
  | .opDecode _ => ⟨3, 0b111, 0b010⟩
  | .opD2c _ => ⟨3, 0b111, 0b011⟩
  | .opC2d _ => ⟨3, 0b111, 0b100⟩

/-- `H = F[0]*65536 + F[1]*256 + F[2]` of a frame of three bytes or more (R61). -/
def headerOf : List Byte → Option Nat
  | b0 :: b1 :: b2 :: _ => some (b0.toNat * 65536 + b1.toNat * 256 + b2.toNat)
  | _ => none

/-- The number a request shows under the table's masks: a token byte, a header or an OP field. A
request on one of the five separate channels has no OP field (R71). -/
def requestWord : Request → Option Nat
  | .encode cmd _ => cmd.map BitVec.toNat
  | .decode rx => headerOf rx
  | .serializer p => headerOf p
  | .mux op _ => some op.toNat
  | .crc16 _ _ => none
  | .d2c _ => none
  | .c2d _ => none

/-! ### One word of the table, as the host asks for it -/

/-- Byte `k` of a number, byte 0 the lowest. -/
def byteOfNat (w k : Nat) : Byte := BitVec.ofNat 8 (w / 256 ^ k)

/-- The header number of R61 as the three bytes it stands for, the first on the wire first. -/
def headerBytes (w : Nat) : List Byte := [byteOfNat w 2, byteOfNat w 1, byteOfNat w 0]

/-- The request an instruction's bits `w` are, with every bit above `nbits` zero. Up to eight bits: an OP
field (0 to 7, R71), else a token byte without arguments (R66). 40 bits: only REQ5 is so long, its CRC
field computed (R62). Otherwise a frame of seven bytes, received: the header number (R61), then the four
bytes after it. DESIGN CHOICE, safe: assumption log, entry 13. -/
def tableRequest (nbits w : Nat) : Request :=
  if nbits ≤ 8 then
    if w < 8 then .mux (BitVec.ofNat 3 w) Lanes.zero else .encode (some (byteOfNat w 0)) []
  else if nbits = 40 then .serializer (headerBytes w)
  else .decode (headerBytes w ++ [byteOfNat w 3, byteOfNat w 4, byteOfNat w 5, byteOfNat w 6])

/-- The instruction the decoder reads from `w`, numbered as spec/opcode_table.json numbers its bits. -/
def decodeTableWord (nbits w : Nat) : Option Instr := (decode (tableRequest nbits w)).toOption

end Sys2Proof
end

