-- ==== Sys2Proof/Machine/Decoder.lean ====
section
/-! DEFINITION. The DECODE operation, the acknowledgement parser (R160 to R167), and the meanings of the
ACK rows and OP_DECODE. -/

namespace Sys2Proof.Machine

/-- INCOMPLETE_BELOW (R8, R161). -/
def incompleteBelow : Nat := 4

/-- The record of step 7 (R28, R167), from a chunk that has passed the checks. -/
def ackRecord (rx : List Byte) (k : Kind) : Ack where
  magic := memRead16 rx 0
  code := memRead8 rx 2
  kind := k
  attA := (memRead8 rx 3).setWidth 6
  attB := (memRead8 rx 4).setWidth 6
  dbA := codeToDb ((memRead8 rx 3).setWidth 6)
  dbB := codeToDb ((memRead8 rx 4).setWidth 6)
  crc := memRead16 rx 5

/-- Steps 4 to 7 of the pipeline, for a chunk whose code has the entry `e` (R164 to R167). -/
def parseBody (rx : List Byte) (e : CodeEntry) : Except DecError Ack :=
  if rx.length ≠ e.ackLen then .error .malformedFrame
  else if crc16 rx 5 ≠ memRead16 rx 5 then .error .checksumMismatch
  else if 63 < (memRead8 rx 3).toNat ∨ 63 < (memRead8 rx 4).toNat then .error .malformedFrame
  else .ok (ackRecord rx e.kind)

/-- `DECODE(rx)` (R160): the checks in the source's order, stopping at the first that fails. -/
def parseAck (rx : List Byte) : Except DecError Ack :=
  if rx.length < incompleteBelow then .error .incomplete
  else if memRead16 rx 0 ≠ magic then .error .badMagic
  else
    match lookupCode (memRead8 rx 2) with
    | none => .error .unknownCode
    | some e => parseBody rx e

/-- ACK_READ (R168): DECODE of the chunk. -/
def execAckRead (tail : List Byte) (s : State) : Host.Outcome State Fault Refusal :=
  .next (deliverDecode (decResponse (parseAck (frameHeader 0x01#8 ++ tail))) s)

/-- ACK_WRITE (R169): DECODE of the chunk. -/
def execAckWrite (tail : List Byte) (s : State) : Host.Outcome State Fault Refusal :=
  .next (deliverDecode (decResponse (parseAck (frameHeader 0x02#8 ++ tail))) s)

/-- ACK_SAVE (R170): DECODE of the chunk. -/
def execAckSave (tail : List Byte) (s : State) : Host.Outcome State Fault Refusal :=
  .next (deliverDecode (decResponse (parseAck (frameHeader 0x08#8 ++ tail))) s)

/-- OP_DECODE (R160). -/
def execOpDecode (rx : List Byte) (s : State) : Host.Outcome State Fault Refusal :=
  .next (deliverDecode (decResponse (parseAck rx)) s)

end Sys2Proof.Machine
end

