-- ==== Sys2Proof/Machine/Encoder.lean ====
section
/-! DEFINITION. The ENCODE operation and its units (R120 to R137), and the meanings of the CMD rows, the
REQ rows and OP_ENCODE. -/

namespace Sys2Proof.Machine

/-! ### The pipeline -/

/-- `expected_args(kind)` (R124): the code table's argument count. -/
def expectedArgs : Kind → Nat
  | .read => 0
  | .write => 2
  | .save => 0

/-- The argument-count check (R126), before any operand is read. -/
def countOk (k : Kind) (args : List Operand) : Bool := args.length == expectedArgs k

/-- The Read request of a command line (R126, R132). -/
def encodeRead (args : List Operand) : Except EncError (List Byte) :=
  if countOk .read args then .ok (serialize (requestPayload .read 0#6 0#6)) else .error .invalidArgument

/-- The Save request of a command line (R126, R134). -/
def encodeSave (args : List Operand) : Except EncError (List Byte) :=
  if countOk .save args then .ok (serialize (requestPayload .save 0#6 0#6)) else .error .invalidArgument

/-- The Write request of a command line (R126, R127, R133): the first operand is ATT_A, the second ATT_B. -/
def encodeWrite (tie : TieRule) (args : List Operand) : Except EncError (List Byte) :=
  match args with
  | [a, b] =>
    match dbToCode tie a, dbToCode tie b with
    | .ok ca, .ok cb => .ok (serialize (requestPayload .write ca cb))
    | _, _ => .error .invalidArgument
  | _ => .error .invalidArgument

/-- The stages after the discriminator (R120). -/
def encodeKind (tie : TieRule) (k : Kind) (args : List Operand) : Except EncError (List Byte) :=
  match k with
  | .read => encodeRead args
  | .write => encodeWrite tie args
  | .save => encodeSave args

/-- `ENCODE(cmd, args)` (R120): a missing or unassigned leading byte is UnknownCommand, whatever the
arguments are (R123, R125). -/
def encodeLine (tie : TieRule) (cmd : Option Byte) (args : List Operand) : Except EncError (List Byte) :=
  match cmd with
  | none => .error .unknownCommand
  | some b =>
    match discriminate b with
    | none => .error .unknownCommand
    | some k => encodeKind tie k args

/-! ### The meanings -/

/-- CMD_R (R132). The token selects Read by its first byte alone (R67); `cmd` has no other effect. -/
def execCmdR (_cmd : Byte) (args : List Operand) (s : State) : Host.Outcome State Fault Refusal :=
  .next (deliverEncode (encResponse (encodeRead args)) s)

/-- CMD_W (R133). -/
def execCmdW (_cmd : Byte) (args : List Operand) (s : State) : Host.Outcome State Fault Refusal :=
  .next (deliverEncode (encResponse (encodeWrite Config.tieRule args)) s)

/-- CMD_S (R134). -/
def execCmdS (_cmd : Byte) (args : List Operand) (s : State) : Host.Outcome State Fault Refusal :=
  .next (deliverEncode (encResponse (encodeSave args)) s)

/-- REQ_READ (R132, R62). -/
def execReqRead (s : State) : Host.Outcome State Fault Refusal :=
  .next (deliverEncode (encResponse (.ok (serialize (requestPayload .read 0#6 0#6)))) s)

/-- REQ_WRITE (R133, R62). -/
def execReqWrite (attA attB : Code) (s : State) : Host.Outcome State Fault Refusal :=
  .next (deliverEncode (encResponse (.ok (serialize (requestPayload .write attA attB)))) s)

/-- REQ_SAVE (R134, R62). -/
def execReqSave (s : State) : Host.Outcome State Fault Refusal :=
  .next (deliverEncode (encResponse (.ok (serialize (requestPayload .save 0#6 0#6)))) s)

/-- OP_ENCODE (R120). -/
def execOpEncode (cmd : Option Byte) (args : List Operand) (s : State) :
    Host.Outcome State Fault Refusal :=
  .next (deliverEncode (encResponse (encodeLine Config.tieRule cmd args)) s)

end Sys2Proof.Machine
end

