-- ==== Sys2Proof/Machine/Dispatch.lean ====
section
/-! DEFINITION. One arm per constructor of Instr, each one direct call of its meaning. -/

namespace Sys2Proof.Machine

def exec (i : Instr) (s : State) : Host.Outcome State Fault Refusal :=
  match i with
  | .cmdR cmd args => Sys2Proof.Machine.execCmdR cmd args s
  | .cmdW cmd args => Sys2Proof.Machine.execCmdW cmd args s
  | .cmdS cmd args => Sys2Proof.Machine.execCmdS cmd args s
  | .reqRead => Sys2Proof.Machine.execReqRead s
  | .reqWrite attA attB => Sys2Proof.Machine.execReqWrite attA attB s
  | .reqSave => Sys2Proof.Machine.execReqSave s
  | .ackRead tail => Sys2Proof.Machine.execAckRead tail s
  | .ackWrite tail => Sys2Proof.Machine.execAckWrite tail s
  | .ackSave tail => Sys2Proof.Machine.execAckSave tail s
  | .opCrc16 buf n => Sys2Proof.Machine.execOpCrc16 buf n s
  | .opEncode cmd args => Sys2Proof.Machine.execOpEncode cmd args s
  | .opDecode rx => Sys2Proof.Machine.execOpDecode rx s
  | .opD2c v => Sys2Proof.Machine.execOpD2c v s
  | .opC2d c => Sys2Proof.Machine.execOpC2d c s

end Sys2Proof.Machine
end

