-- ==== Sys2Proof/Machine/Step.lean ====
section
/-! DEFINITION. One step: the oldest pending request is answered, or nothing happens when none is
pending (R24, R47, R241). -/

namespace Sys2Proof.Machine

/-- The refusal a rejected request ends in (R215). -/
def refusalOf : Reject → Refusal
  | .reservedOp op => .reservedOp op
  | .operandNotExpressible => .operandNotExpressible
  | .notARequestLayout => .notARequestLayout

/-- One step of the machine: one transaction, atomic (R24, R47). With no request pending the state stays
as it is (DESIGN CHOICE, safe: assumption log, entry 4). -/
def step (s : State) : Host.Outcome State Fault Refusal :=
  match s.pending with
  | [] => .next s
  | r :: rest =>
    match decode r with
    | .ok i => exec i { s with pending := rest }
    | .error why => .refused (refusalOf why)

/-- The state with that instruction as the request answered next. -/
def State.withFetchWord (s : State) (nbits w : Nat) : State :=
  { s with pending := tableRequest nbits w :: s.pending }

end Sys2Proof.Machine
end

