-- ==== Sys2Proof/Safety.lean ====
section
/-! DEFINITION. The terms claims use: the channels and what their ports show, when a run is over, which
requests the block answers, and when the ports show what the spec lets them show. -/

namespace Sys2Proof.Machine

/-! ### Channels and responses -/

/-- The five channels (R4, R24). -/
inductive Channel where
  | crc16
  | encode
  | decode
  | d2c
  | c2d
  deriving DecidableEq, Repr

/-- A response on some channel (R25, R26, R28 to R30). -/
inductive Response where
  | crc16 (crc : U16)
  | encode (r : EncResp)
  | decode (r : DecResp)
  | d2c (r : D2cResp)
  | c2d (db : Db)
  deriving DecidableEq, Repr

/-- What the port of a channel shows, if it shows a response (R32, R240). -/
def State.response (s : State) : Channel → Option Response
  | .crc16 => s.crc16Port.map .crc16
  | .encode => s.encodePort.map .encode
  | .decode => s.decodePort.map .decode
  | .d2c => s.d2cPort.map .d2c
  | .c2d => s.c2dPort.map .c2d

/-- The channel an instruction is a transaction on (R72). -/
def channelOf : Instr → Channel
  | .cmdR _ _ => .encode
  | .cmdW _ _ => .encode
  | .cmdS _ _ => .encode
  | .reqRead => .encode
  | .reqWrite _ _ => .encode
  | .reqSave => .encode
  | .ackRead _ => .decode
  | .ackWrite _ => .decode
  | .ackSave _ => .decode
  | .opCrc16 _ _ => .crc16
  | .opEncode _ _ => .encode
  | .opDecode _ => .decode
  | .opD2c _ => .d2c
  | .opC2d _ => .c2d

/-! ### Runs -/

/-- A run is over when every request issued has been answered and none is pending (R242): a request that a
reset abandoned is never answered (R230), so its run is never over. A run that stopped in a fault or a
refusal has no state, so it is never over. -/
def State.final (s : State) : Bool := s.pending.isEmpty && s.abandoned.isEmpty

/-- The caller keeps the one contract of the block (R25, R214). -/
def contractKept : Instr → Bool
  | .opCrc16 buf n => decide (n ≤ buf.length)
  | _ => true

/-- The block answers this request: it is an instruction (R215), and it keeps the contract (R214). -/
def answered (r : Request) : Bool :=
  match decode r with
  | .ok i => contractKept i
  | .error _ => false

/-- The response an instruction gets when it is the only one the block is ever asked (R21, R51). -/
def responseAlone (i : Instr) : Option Response :=
  match exec i State.reset with
  | .next t => t.response (channelOf i)
  | .fault _ => none
  | .refused _ => none

/-- What the port of `c` shows after the requests `rs` when each gets the response it would have alone:
the response to the last of them on `c`, and `old` if none of them is on `c` (R51). -/
def shownAfter (c : Channel) : Option Response → List Request → Option Response
  | old, [] => old
  | old, r :: rs =>
    match decode r with
    | .ok i => shownAfter c (if channelOf i = c then responseAlone i else old) rs
    | .error _ => shownAfter c old rs

/-! ### What the inputs show -/

/-- The four length classes of a chunk (R27 (a)): below 4; 4, 5 or 6; exactly 7; 8 or more. -/
def lengthClass (n : Nat) : Nat := if n < 4 then 0 else if n < 7 then 1 else if n = 7 then 2 else 3

/-- The operand is a finite number in [0.0, 31.5], both ends included (R122). -/
def inRange : Operand → Bool
  | .num q => decide (0 ≤ q) && decide (q ≤ 63 / 2)
  | .notNum => false

/-! ### What the ports may show -/

/-- A complete request frame (R60, R62): MAGIC, a code of the table, that code's length, ATT bytes 0..63,
and the CRC of the bytes before the CRC field, high byte first. -/
def isRequestFrame (F : List Byte) : Bool :=
  match lookupCode (memRead8 F 2) with
  | none => false
  | some e =>
    F.length == e.reqLen && memRead16 F 0 == magic
      && ((F.take (F.length - 2)).drop 3).all (fun b => decide (b.toNat ≤ 63))
      && memRead16 F (F.length - 2) == crc16 F (F.length - 2)

/-- The bytes an acknowledgement record stands for, without their CRC field (R63). -/
def Ack.payload (a : Ack) : List Byte := frameHeader a.code ++ [a.attA.setWidth 8, a.attB.setWidth 8]

/-- A record as R28 and R167 describe it: MAGIC, a code of the table with its kind, halves for the dB
values, and the CRC of the frame it stands for. -/
def Ack.consistent (a : Ack) : Bool :=
  a.magic == Sys2Proof.Machine.magic && (lookupCode a.code).map CodeEntry.kind == some a.kind
    && a.dbA == (a.attA.toNat : Rat) / 2 && a.dbB == (a.attB.toNat : Rat) / 2
    && a.crc == crc16 a.payload 5

/-- An ENCODE response: a whole frame, or an error and no bytes (R131). -/
def EncResp.valid (r : EncResp) : Bool :=
  match r.status with
  | .ok => isRequestFrame r.tx
  | .invalidArgument => r.tx.isEmpty
  | .unknownCommand => r.tx.isEmpty

/-- A DECODE response: a record exactly when the status is OK (R28). -/
def DecResp.valid (r : DecResp) : Bool :=
  match r.status, r.ack with
  | .ok, some a => a.consistent
  | .ok, none => false
  | _, some _ => false
  | _, none => true

/-- A D2C response: OK with a code, or InvalidArgument without one (R29, R201). -/
def D2cResp.valid (r : D2cResp) : Bool :=
  match r.status, r.code with
  | .ok, some _ => true
  | .invalidArgument, none => true
  | _, _ => false

/-- A C2D response: a multiple of 0.5 in [0.0, 31.5] (R30, R171). -/
def validDb (q : Db) : Bool := decide (0 ≤ q) && decide (q ≤ 63 / 2) && (2 * q).den == 1

/-- Every port shows no response or one the spec allows: the invariant of the machine. -/
def State.portsValid (s : State) : Bool :=
  s.encodePort.all EncResp.valid && s.decodePort.all DecResp.valid && s.d2cPort.all D2cResp.valid
    && s.c2dPort.all validDb

end Sys2Proof.Machine
end

