-- ==== Sys2Proof/Certificates/Slice0/Obligations.lean ====
section
/-! DEFINITION. The statements for the provers. Each docstring names the rules of spec/ it formalises; a
free value (`Config.tieRule`, the hidden registers) stands for every value in every statement. -/

open Sys2Proof Sys2Proof.Machine

/-! ### Steps, requests and decoding -/

/-- R24, R47: one step is one whole transaction: it runs the instruction a pending request decodes to on the state
without that request; nothing else is added around `exec`. That the pending requests stand in a queue of which a
step takes the oldest is the model's choice (assumption log, entry 3). -/
def Obligations.StepRunsTheDecodedRequest : Prop :=
  ∀ (s : State) (r : Request) (rest : List Request) (i : Instr),
    s.pending = r :: rest → decode r = .ok i → step s = exec i { s with pending := rest }

/-- R24: without a request there is no transaction. That such a step is possible and changes nothing is the
model's choice (assumption log, entry 4). -/
def Obligations.IdleStepChangesNothing : Prop :=
  ∀ s : State, s.pending = [] → step s = .next s

/-- R24, R234: a request accepted by an idle block is answered by the next step; one accepted by a busy
block leaves the requests before it in their order (the model's queue, assumption log, entry 3). -/
def Obligations.AcceptedRequestIsAnsweredInTurn : Prop :=
  ∀ (s : State) (r : Request) (i : Instr), decode r = .ok i →
    (s.pending = [] → step (s.accept r) = exec i s) ∧
    (∀ q rest j, s.pending = q :: rest → decode q = .ok j →
      step (s.accept r) = exec j { s with pending := rest ++ [r] })

/-- R71: the operation a multiplexed request selects, and the refusal of the reserved selections. That each
operation takes its operands from its own lanes, and which operands a lane carries exactly, is the model's choice
(assumption log, entries 10 and 2). -/
def Obligations.OperationSelectField : Prop :=
  ∀ l : Lanes,
    decode (.mux 0b000#3 l) = .ok (.opCrc16 l.buf l.n) ∧
    (∀ vs, l.args = vs.map RawOperand.exact → decode (.mux 0b001#3 l) = .ok (.opEncode l.cmd vs)) ∧
    decode (.mux 0b010#3 l) = .ok (.opDecode l.rx) ∧
    (∀ v, l.v = .exact v → decode (.mux 0b011#3 l) = .ok (.opD2c v)) ∧
    decode (.mux 0b100#3 l) = .ok (.opC2d l.c) ∧
    ∀ (op : OpSel) (s : State) (rest : List Request),
      op = 0b101#3 ∨ op = 0b110#3 ∨ op = 0b111#3 → s.pending = .mux op l :: rest →
        step s = .refused (.reservedOp op)

/-- R215: the two kinds of request the model gives no meaning to, on every port that can carry them. That an
operand OPERAND_REPR cannot express stands in the request as `inexact`, and that a multiplexed request carries
its operands in lanes, is the model's choice (assumption log, entries 2 and 10). -/
def Obligations.UnusableRequestsAreRefused : Prop :=
  ∀ (s : State) (rest : List Request) (q : Db),
    (∀ (op : OpSel) (l : Lanes), 4 < op.toNat → s.pending = .mux op l :: rest →
      step s = .refused (.reservedOp op)) ∧
    (∀ cmd args, RawOperand.inexact q ∈ args → s.pending = .encode cmd args :: rest →
      step s = .refused .operandNotExpressible) ∧
    (∀ l : Lanes, RawOperand.inexact q ∈ l.args → s.pending = .mux 0b001#3 l :: rest →
      step s = .refused .operandNotExpressible) ∧
    (s.pending = .d2c (.inexact q) :: rest → step s = .refused .operandNotExpressible) ∧
    (∀ l : Lanes, l.v = .inexact q → s.pending = .mux 0b011#3 l :: rest →
      step s = .refused .operandNotExpressible)

/-- R61 to R66, R71: words written out from the encoding tables decode to the instructions they stand for. The
requests that carry them are the model's choice (assumption log, entries 10 to 12). -/
def Obligations.WrittenOutWordsDecode : Prop :=
  decode (.encode (some 0b01110010#8) []) = .ok (.cmdR 0x72#8 []) ∧
  decode (.encode (some 0b01010111#8) [.exact .notNum]) = .ok (.cmdW 0x57#8 [.notNum]) ∧
  decode (.serializer [0xAA#8, 0x55#8, 0x02#8, 0b00000010#8, 0b00111111#8]) = .ok (.reqWrite 2#6 63#6) ∧
  decode (.decode [0xAA#8, 0x55#8, 0x08#8, 0x02#8, 0x05#8, 0x75#8, 0x6D#8])
    = .ok (.ackSave [0x02#8, 0x05#8, 0x75#8, 0x6D#8]) ∧
  decode (.mux 0b100#3 { Lanes.zero with c := 5#6 }) = .ok (.opC2d 5#6)

/-- The six command bytes of R66's table, and no other, select a kind ("Each match/mask pair accepts exactly the two
bytes listed", which the spec marks as derived; the byte values are ASCII, marked as general knowledge). -/
def Obligations.CommandBytesSelectKinds : Prop :=
  ∀ b : Byte,
    (discriminate b = some .read ↔ b = 0x72#8 ∨ b = 0x52#8) ∧
    (discriminate b = some .write ↔ b = 0x77#8 ∨ b = 0x57#8) ∧
    (discriminate b = some .save ↔ b = 0x73#8 ∨ b = 0x53#8)

/-- R64: the codes, kinds, lengths and argument counts of the code table; R69 (a): it has no other entry; R124:
the expected argument counts. -/
def Obligations.CodeTableEntries : Prop :=
  lookupCode 0x01#8 = some ⟨0x01#8, .read, 5, 7, expectedArgs .read⟩ ∧
  lookupCode 0x02#8 = some ⟨0x02#8, .write, 7, 7, expectedArgs .write⟩ ∧
  lookupCode 0x08#8 = some ⟨0x08#8, .save, 5, 7, expectedArgs .save⟩ ∧
  expectedArgs .read = 0 ∧ expectedArgs .write = 2 ∧ expectedArgs .save = 0 ∧
  ∀ c : Byte, c ≠ 0x01#8 → c ≠ 0x02#8 → c ≠ 0x08#8 → lookupCode c = none

/-- R61 to R66, R71: for every instruction a row's encoding admits, decoding its encoding gives it back,
with every operand at every value. The requests that carry them are the model's choice (assumption log, entries
10 to 12). -/
def Obligations.DecodeEncodeAgree : Prop :=
  ∀ i : Instr, i.wellFormed = true → decode (encode i) = .ok i

/-- R66: no request decodes to an instruction that the table's encodings cannot name. -/
def Obligations.DecodedInstructionsAreWellFormed : Prop :=
  ∀ (r : Request) (i : Instr), decode r = .ok i → i.wellFormed = true

/-- R60, R62: the bytes of a whole request frame and the REQ row they stand for determine each other. -/
def Obligations.RequestFramesDecodeUniquely : Prop :=
  ∀ (F : List Byte) (i : Instr), decodeRequestFrame F = some i ↔ encodeRequestFrame i = some F

/-! ### Statuses, reset and the ports -/

/-- The numbers of R201 and R202, the numbers no status has, and that D2C never answers UnknownCommand. -/
def Obligations.StatusNumbers : Prop :=
  (encStatusBits .ok = 0 ∧ encStatusBits .invalidArgument = 1 ∧ encStatusBits .unknownCommand = 2) ∧
  (decStatusBits .ok = 0 ∧ decStatusBits .incomplete = 1 ∧ decStatusBits .badMagic = 2 ∧
    decStatusBits .unknownCode = 3 ∧ decStatusBits .malformedFrame = 4 ∧
    decStatusBits .checksumMismatch = 5) ∧
  (∀ e, encStatusBits e ≠ 3) ∧ (∀ d, decStatusBits d ≠ 6 ∧ decStatusBits d ≠ 7) ∧
  ∀ (v : Operand) (s : State), ∃ t r, exec (.opD2c v) s = .next t ∧ t.d2cPort = some r ∧
    r.status ≠ .unknownCommand

/-- R230, R32: reset makes every channel idle and abandons what was accepted: no step answers it. That no port
shows a response after reset is the model's reading of "not a response" (assumption log, entry 5); that the steps
after a reset stand still until the host asks again is the model's choice (entries 4 and 14); the record of what
was abandoned is the model's own (entry 21). -/
def Obligations.ResetAbandonsRequests : Prop :=
  ∀ s : State, s.afterReset.pending = [] ∧ s.afterReset.abandoned = s.abandoned ++ s.pending ∧
    (∀ c, s.afterReset.response c = none) ∧
    (∀ k, Host.Core.run core k s.afterReset = .next s.afterReset) ∧
    State.reset.pending = [] ∧ State.reset.abandoned = [] ∧ ∀ c, State.reset.response c = none

/-- R32: the ports' invariant holds right after reset. -/
def Obligations.PortsValidAtReset : Prop := State.reset.portsValid = true

/-- R28 to R31, R62, R131, R167, R171, R201, R212: from every state whose ports show only responses the spec
allows, a step leads to such a state: whole and consistent request frames, records consistent with the frame
they stand for, data exactly on OK, dB values that are halves in [0, 31.5]. That a port goes on showing its
response is the model's choice (assumption log, entry 5). -/
def Obligations.EveryStepKeepsPortsValid : Prop :=
  ∀ s t : State, s.portsValid = true → step s = .next t → t.portsValid = true

/-! ### The Checksum Engine -/

/-- R102, R103: one byte step: XOR into the low byte, then eight rounds, each a right shift and, when the bit
shifted out was 1, an XOR with 0xA001. -/
def Obligations.CrcByteStep : Prop :=
  (∀ acc b, crcByte acc b = crcRound^[8] (acc ^^^ BitVec.ofNat 16 b.toNat)) ∧
  ∀ acc, (crcRound acc).toNat =
    if acc.toNat % 2 = 1 then (acc.toNat / 2) ^^^ 0xA001 else acc.toNat / 2

/-- R101, R104, with the byte step of R102: CRC16 with its contract kept starts from 0xFFFF in every state,
whatever the hidden accumulator holds there, takes the first `n` bytes in order, and answers the accumulator
itself. -/
def Obligations.Crc16FoldsTheByteStep : Prop :=
  ∀ buf n s, n ≤ buf.length → ∃ t, exec (.opCrc16 buf n) s = .next t ∧
    t.crc16Port = some ((buf.take n).foldl crcByte 0xFFFF#16)

/-- R100: bytes at offsets `n` and above are not read, and `n = 0` gives 0xFFFF. -/
def Obligations.Crc16ReadsOnlyTheFirstBytes : Prop :=
  (∀ p q q' s, ∃ t t', exec (.opCrc16 (p ++ q) p.length) s = .next t ∧
    exec (.opCrc16 (p ++ q') p.length) s = .next t' ∧ t.crc16Port = t'.crc16Port) ∧
  ∀ buf s, ∃ t, exec (.opCrc16 buf 0) s = .next t ∧ t.crc16Port = some 0xFFFF#16

/-- R214: a request with `n > len(buf)` gets no response, and no other instruction ever faults (of ENCODE and
DECODE, R214 marks that as derived). That the run is faulted from there on, however many steps follow, is how the
model keeps the fault "for the rest of the run" (assumption log, entry 8, DEDUCED). -/
def Obligations.CrcContractBreachFaultsTheRun : Prop :=
  (∀ buf n (s : State), buf.length < n → exec (.opCrc16 buf n) s = .fault .crcLengthContract) ∧
  (∀ buf n (s : State) r rest, s.pending = r :: rest → decode r = .ok (.opCrc16 buf n) →
    buf.length < n → ∀ k, Host.Core.run core (k + 1) s = .fault .crcLengthContract) ∧
  ∀ (i : Instr) (s : State), (∀ buf n, i ≠ .opCrc16 buf n) → ∃ t, exec i s = .next t

/-- R44, R102, R103: a byte step takes the bits of the byte one at a time, bit 0 first: each round shifts
right and XORs 0xA001 when the accumulator's low bit and the input bit differ. -/
def Obligations.CrcTakesBitsLowFirst : Prop :=
  ∀ (acc : U16) (b : Byte),
    crcByte acc b = ((List.range 8).map b.getLsbD).foldl
      (fun (a : U16) bit => if a.getLsbD 0 != bit then (a >>> 1) ^^^ 0xA001#16 else a >>> 1) acc

/-- R165 (its reason): for one length, the XOR of two CRC accumulators is the accumulator of the XORs. -/
def Obligations.CrcOfXorIsXorOfCrcs : Prop :=
  ∀ (a b : U16) (xs ys : List Byte), xs.length = ys.length →
    crcFold a xs ^^^ crcFold b ys = crcFold (a ^^^ b) (List.zipWith (· ^^^ ·) xs ys)

/-! ### The encoder -/

/-- R132: a Read line, by CMD_R, answers the frame AA 55 01 70 AF, and InvalidArgument and no bytes when it has
any argument, whatever its leading token is. -/
def Obligations.ReadRequest : Prop :=
  ∀ cmd args s, (Instr.cmdR cmd args).wellFormed = true → ∃ t, exec (.cmdR cmd args) s = .next t ∧
    (args = [] → t.encodePort = some ⟨.ok, [0xAA#8, 0x55#8, 0x01#8, 0x70#8, 0xAF#8]⟩) ∧
    (args ≠ [] → t.encodePort = some ⟨.invalidArgument, []⟩)

/-- R134: a Save line, by CMD_S, answers the frame AA 55 08 76 6F, and InvalidArgument and no bytes when it has
any argument, whatever its leading token is. -/
def Obligations.SaveRequest : Prop :=
  ∀ cmd args s, (Instr.cmdS cmd args).wellFormed = true → ∃ t, exec (.cmdS cmd args) s = .next t ∧
    (args = [] → t.encodePort = some ⟨.ok, [0xAA#8, 0x55#8, 0x08#8, 0x76#8, 0x6F#8]⟩) ∧
    (args ≠ [] → t.encodePort = some ⟨.invalidArgument, []⟩)

/-- R133: a Write line with two operands in range answers AA 55 02, the two rounded codes, A first, and their
CRC, high byte first; with any other operands, or another number of them, InvalidArgument and no bytes. -/
def Obligations.WriteRequest : Prop :=
  ∀ cmd args s, (Instr.cmdW cmd args).wellFormed = true → ∃ t, exec (.cmdW cmd args) s = .next t ∧
    (∀ qa qb, args = [.num qa, .num qb] → 0 ≤ qa → qa ≤ 63 / 2 → 0 ≤ qb → qb ≤ 63 / 2 →
      ∃ (ca cb : Code) (P : List Byte),
        (ca.toNat : Int) = roundT Config.tieRule (2 * qa) ∧
        (cb.toNat : Int) = roundT Config.tieRule (2 * qb) ∧
        P = [0xAA#8, 0x55#8, 0x02#8, ca.setWidth 8, cb.setWidth 8] ∧
        t.encodePort = some ⟨.ok, P ++ [hiByte (crc16 P 5), loByte (crc16 P 5)]⟩) ∧
    ((¬ ∃ a b, args = [a, b] ∧ inRange a = true ∧ inRange b = true) →
      t.encodePort = some ⟨.invalidArgument, []⟩)

/-- R62: the two request layouts, offset by offset, for the frames of the REQ rows; that such a row can be put to
the machine by itself is the model's choice (assumption log, entry 12). -/
def Obligations.RequestFrameLayouts : Prop :=
  (∀ (a b : Code) (s : State), ∃ t tx, exec (.reqWrite a b) s = .next t ∧
    t.encodePort = some ⟨.ok, tx⟩ ∧ tx.length = 7 ∧
    tx[0]? = some 0xAA#8 ∧ tx[1]? = some 0x55#8 ∧ tx[2]? = some 0x02#8 ∧
    (tx[3]?).map BitVec.toNat = some a.toNat ∧ (tx[4]?).map BitVec.toNat = some b.toNat ∧
    tx[5]? = some (hiByte (crc16 tx 5)) ∧ tx[6]? = some (loByte (crc16 tx 5))) ∧
  ∀ (i : Instr) (code : Byte) (s : State), (i, code) = (.reqRead, 0x01#8) ∨ (i, code) = (.reqSave, 0x08#8) →
    ∃ t tx, exec i s = .next t ∧ t.encodePort = some ⟨.ok, tx⟩ ∧ tx.length = 5 ∧
      tx[0]? = some 0xAA#8 ∧ tx[1]? = some 0x55#8 ∧ tx[2]? = some code ∧
      tx[3]? = some (hiByte (crc16 tx 3)) ∧ tx[4]? = some (loByte (crc16 tx 3))

/-- R204, with the match of R123: a line without a token, or whose leading byte is not r, w or s in either
case, answers UnknownCommand and no bytes, whatever its arguments are. -/
def Obligations.UnknownCommandLine : Prop :=
  ∀ (cmd : Option Byte) (args : List Operand) (s : State),
    (∀ b ∈ cmd, b &&& 0xDF#8 ∉ [0x52#8, 0x57#8, 0x53#8]) →
      ∃ t, exec (.opEncode cmd args) s = .next t ∧ t.encodePort = some ⟨.unknownCommand, []⟩

/-- R124 to R127: ENCODE reports the first failing stage: the discriminator before the count, the count
before the operands; and OK exactly when no stage fails. -/
def Obligations.EncodeReportsTheFirstFailure : Prop :=
  ∀ (b : Byte) (args : List Operand) (s : State), ∃ t r, exec (.opEncode (some b) args) s = .next t ∧
    t.encodePort = some r ∧
    (b &&& 0xDF#8 ∉ [0x52#8, 0x57#8, 0x53#8] → r.status = .unknownCommand) ∧
    (b &&& 0xDF#8 ∈ [0x52#8, 0x53#8] →
      (args.length ≠ 0 → r.status = .invalidArgument) ∧ (args.length = 0 → r.status = .ok)) ∧
    (b &&& 0xDF#8 = 0x57#8 →
      (args.length ≠ 2 → r.status = .invalidArgument) ∧
      (args.length = 2 → (∃ v ∈ args, inRange v = false) → r.status = .invalidArgument) ∧
      (args.length = 2 → (∀ v ∈ args, inRange v = true) → r.status = .ok))

/-- R131: ENCODE, by OP_ENCODE or by a CMD row, answers a complete frame with OK, or an error and no bytes. -/
def Obligations.EncodeAllOrNothing : Prop :=
  ∀ (i : Instr) (s : State),
    (∃ b args, i = .cmdR b args ∨ i = .cmdW b args ∨ i = .cmdS b args) ∨ (∃ cmd args, i = .opEncode cmd args) →
    ∃ t r, exec i s = .next t ∧ t.encodePort = some r ∧
    (r.status ≠ .ok → r.tx = []) ∧ (r.status = .ok → isRequestFrame r.tx = true)

/-- R120, R132 to R134: on the lines it stands for, a CMD row does what OP_ENCODE does, so it does not matter
which of the two the model's decoder reads a line as (assumption log, entry 11). -/
def Obligations.CommandRowsRefineEncode : Prop :=
  ∀ (b : Byte) (args : List Operand) (s : State),
    ((Instr.cmdR b args).wellFormed = true → exec (.cmdR b args) s = exec (.opEncode (some b) args) s) ∧
    ((Instr.cmdW b args).wellFormed = true → exec (.cmdW b args) s = exec (.opEncode (some b) args) s) ∧
    ((Instr.cmdS b args).wellFormed = true → exec (.cmdS b args) s = exec (.opEncode (some b) args) s)

/-- R132 to R136: a REQ row (the model's choice, assumption log, entry 12) does what OP_ENCODE does with the line
that asks for that frame; for REQ_WRITE, the line with the dB values the two codes stand for. -/
def Obligations.RequestRowsAreWhatEncodeSends : Prop :=
  ∀ (a b : Code) (s : State),
    exec .reqRead s = exec (.opEncode (some 0x72#8) []) s ∧
    exec .reqSave s = exec (.opEncode (some 0x73#8) []) s ∧
    exec (.reqWrite a b) s =
      exec (.opEncode (some 0x77#8) [.num ((a.toNat : Rat) / 2), .num ((b.toNat : Rat) / 2)]) s

/-- R26: operands after the second are never read. -/
def Obligations.OperandsPastTheSecondAreNotRead : Prop :=
  ∀ (cmd : Option Byte) (args args' : List Operand) (s : State), args.length = args'.length →
    args.take 2 = args'.take 2 → exec (.opEncode cmd args) s = exec (.opEncode cmd args') s

/-! ### The conversions -/

/-- R121: `round_T` on [0, 63], under either tie rule; a tie is exactly an odd multiple of 0.25 dB. That the
result lies in 0..63 is a sentence R121 marks as derived. -/
def Obligations.RoundTDefinition : Prop :=
  (∀ (tie : TieRule) (t : Rat), 0 ≤ t → t ≤ 63 →
    (t - t.floor < 1 / 2 → roundT tie t = t.floor) ∧
    (1 / 2 < t - t.floor → roundT tie t = t.floor + 1) ∧
    (t - t.floor = 1 / 2 → tie = .halfEven →
      roundT tie t = if t.floor % 2 = 0 then t.floor else t.floor + 1) ∧
    (t - t.floor = 1 / 2 → tie = .halfAway → roundT tie t = t.floor + 1) ∧
    0 ≤ roundT tie t ∧ roundT tie t ≤ 63) ∧
  ∀ v : Rat, 2 * v - (2 * v).floor = 1 / 2 ↔ ∃ k : Int, v = (2 * k + 1) / 4

/-- R122: D2C answers `round_T(2q)` as a code for a number in [0, 31.5], both ends included, and
InvalidArgument without a code for anything else. That it changes nothing but its port is the model's choice: the
other ports keep their responses and the hidden registers their values (assumption log, entries 5 and 6). -/
def Obligations.D2cResult : Prop :=
  (∀ (q : Rat) (s : State), 0 ≤ q → q ≤ 63 / 2 → ∃ c : Code,
    exec (.opD2c (.num q)) s = .next { s with d2cPort := some ⟨.ok, some c⟩ } ∧
    (c.toNat : Int) = roundT Config.tieRule (2 * q)) ∧
  ∀ (v : Operand) (s : State), inRange v = false →
    exec (.opD2c v) s = .next { s with d2cPort := some ⟨.invalidArgument, none⟩ }

/-- R121, R122: the code stands for a dB value no more than a quarter dB from the one asked. -/
def Obligations.D2cIsWithinAQuarterDb : Prop :=
  ∀ (q : Rat) (s : State), 0 ≤ q → q ≤ 63 / 2 → ∃ (t : State) (c : Code),
    exec (.opD2c (.num q)) s = .next t ∧ t.d2cPort = some ⟨.ok, some c⟩ ∧ |(c.toNat : Rat) / 2 - q| ≤ 1 / 4

/-- R121, R122: a larger dB value never gets a smaller code. -/
def Obligations.D2cIsMonotone : Prop :=
  ∀ (q q' : Rat) (s : State), 0 ≤ q → q ≤ q' → q' ≤ 63 / 2 → ∃ (t t' : State) (c c' : Code),
    exec (.opD2c (.num q)) s = .next t ∧ t.d2cPort = some ⟨.ok, some c⟩ ∧
    exec (.opD2c (.num q')) s = .next t' ∧ t'.d2cPort = some ⟨.ok, some c'⟩ ∧ c.toNat ≤ c'.toNat

/-- R171: C2D answers `c / 2`, for every code. That it changes nothing but its port is the model's choice: the
other ports keep their responses and the hidden registers their values (assumption log, entries 5 and 6). -/
def Obligations.C2dHalves : Prop :=
  ∀ (c : Code) (s : State), exec (.opC2d c) s = .next { s with c2dPort := some ((c.toNat : Rat) / 2) }

/-- R136: a dB value on the 0.5 dB step comes back from D2C and then C2D. That its code is the same under both
tie rules is a sentence R136 marks as derived. -/
def Obligations.DbRoundTrip : Prop :=
  ∀ (k : Nat) (s : State), k ≤ 63 → ∃ (t t' : State) (c : Code),
    exec (.opD2c (.num ((k : Rat) / 2))) s = .next t ∧ t.d2cPort = some ⟨.ok, some c⟩ ∧
    exec (.opC2d c) t = .next t' ∧ t'.c2dPort = some ((k : Rat) / 2) ∧
    ∀ tie, dbToCode tie (.num ((k : Rat) / 2)) = .ok c

/-! ### The decoder -/

/-- R160, R162 to R164, R166: the pipeline, check by check, in order, with the record of an accepted
chunk. It answers every chunk. -/
def Obligations.DecodePipeline : Prop :=
  ∀ (rx : List Byte) (s : State), ∃ t d, exec (.opDecode rx) s = .next t ∧ t.decodePort = some d ∧
    (rx.length < 4 → d = ⟨.incomplete, none⟩) ∧
    (4 ≤ rx.length → ¬ (rx[0]? = some 0xAA#8 ∧ rx[1]? = some 0x55#8) → d = ⟨.badMagic, none⟩) ∧
    (∀ code tail, rx = 0xAA#8 :: 0x55#8 :: code :: tail → 1 ≤ tail.length →
      (code ∉ [0x01#8, 0x02#8, 0x08#8] → d = ⟨.unknownCode, none⟩) ∧
      (code ∈ [0x01#8, 0x02#8, 0x08#8] → rx.length ≠ 7 → d = ⟨.malformedFrame, none⟩) ∧
      (∀ a b h l, code ∈ [0x01#8, 0x02#8, 0x08#8] → tail = [a, b, h, l] →
        (crc16 rx 5 ≠ joinBytes h l → d = ⟨.checksumMismatch, none⟩) ∧
        (crc16 rx 5 = joinBytes h l → 63 < a.toNat ∨ 63 < b.toNat → d = ⟨.malformedFrame, none⟩) ∧
        (crc16 rx 5 = joinBytes h l → a.toNat ≤ 63 → b.toNat ≤ 63 → ∃ ack, d = ⟨.ok, some ack⟩ ∧
          ack.magic = 0xAA55#16 ∧ ack.code = code ∧ codeOf ack.kind = code ∧
          ack.attA.toNat = a.toNat ∧ ack.attB.toNat = b.toNat ∧
          ack.dbA = (a.toNat : Rat) / 2 ∧ ack.dbB = (b.toNat : Rat) / 2 ∧ ack.crc = joinBytes h l)))

/-- Chunks shorter than 4 bytes are Incomplete whatever the bytes are; chunks of 4, 5 or 6 bytes can
only be BadMagic, UnknownCode or MalformedFrame (R161, whose second part the spec marks as derived). -/
def Obligations.ShortChunks : Prop :=
  ∀ (rx : List Byte) (s : State), rx.length < 7 →
    ∃ t d, exec (.opDecode rx) s = .next t ∧ t.decodePort = some d ∧
      (rx.length < 4 → d = ⟨.incomplete, none⟩) ∧
      (4 ≤ rx.length → d = ⟨.badMagic, none⟩ ∨ d = ⟨.unknownCode, none⟩ ∨ d = ⟨.malformedFrame, none⟩)

/-- R168 to R170: the three ACK rows, for every number of bytes after the header. -/
def Obligations.AcknowledgementRows : Prop :=
  ∀ (row : List Byte → Instr) (code : Byte) (kind : Kind) (tail : List Byte) (s : State),
    (row, code, kind) = (Instr.ackRead, 0x01#8, .read) ∨ (row, code, kind) = (Instr.ackWrite, 0x02#8, .write) ∨
      (row, code, kind) = (Instr.ackSave, 0x08#8, .save) →
    ∃ t d, exec (row tail) s = .next t ∧ t.decodePort = some d ∧
      (tail = [] → d = ⟨.incomplete, none⟩) ∧
      (tail ≠ [] → tail.length ≠ 4 → d = ⟨.malformedFrame, none⟩) ∧
      ∀ a b h l, tail = [a, b, h, l] →
        let crc := crc16 [0xAA#8, 0x55#8, code, a, b] 5
        (crc ≠ joinBytes h l → d = ⟨.checksumMismatch, none⟩) ∧
        (crc = joinBytes h l → 63 < a.toNat ∨ 63 < b.toNat → d = ⟨.malformedFrame, none⟩) ∧
        (crc = joinBytes h l → a.toNat ≤ 63 → b.toNat ≤ 63 →
          d = ⟨.ok, some ⟨0xAA55#16, code, kind, a.setWidth 6, b.setWidth 6,
            (a.toNat : Rat) / 2, (b.toNat : Rat) / 2, crc⟩⟩)

/-- R160, R63: DECODE accepts a chunk exactly when it is the acknowledgement frame of some kind and two
attenuation codes. -/
def Obligations.DecodeAcceptsExactlyAckFrames : Prop :=
  ∀ (rx : List Byte) (s : State), ∃ t d, exec (.opDecode rx) s = .next t ∧ t.decodePort = some d ∧
    (d.status = .ok ↔ ∃ (k : Kind) (a b : Code) (P : List Byte),
      P = [0xAA#8, 0x55#8, codeOf k, a.setWidth 8, b.setWidth 8] ∧
      rx = P ++ [hiByte (crc16 P 5), loByte (crc16 P 5)])

/-- On a 7-byte chunk with a recognised header a differing CRC is ChecksumMismatch; and (R165, marked by the spec as
derived by enumeration) one changed
byte of an accepted frame is always caught: at offsets 3 to 6 as ChecksumMismatch, at 0 and 1 as BadMagic,
at 2 as UnknownCode, or as ChecksumMismatch when the new code is another valid one. -/
def Obligations.OneChangedByteIsCaught : Prop :=
  (∀ (code a b h l : Byte) (s : State), code ∈ [0x01#8, 0x02#8, 0x08#8] →
    crc16 [0xAA#8, 0x55#8, code, a, b, h, l] 5 ≠ joinBytes h l →
    ∃ t, exec (.opDecode [0xAA#8, 0x55#8, code, a, b, h, l]) s = .next t ∧
      t.decodePort = some ⟨.checksumMismatch, none⟩) ∧
  ∀ (rx : List Byte) (s t : State) (ack : Ack) (k : Nat) (v : Byte),
    exec (.opDecode rx) s = .next t → t.decodePort = some ⟨.ok, some ack⟩ → k < 7 → rx[k]? ≠ some v →
    ∃ t', exec (.opDecode (rx.set k v)) s = .next t' ∧
      (3 ≤ k → t'.decodePort = some ⟨.checksumMismatch, none⟩) ∧
      (k < 2 → t'.decodePort = some ⟨.badMagic, none⟩) ∧
      (k = 2 → v ∉ [0x01#8, 0x02#8, 0x08#8] → t'.decodePort = some ⟨.unknownCode, none⟩) ∧
      (k = 2 → v ∈ [0x01#8, 0x02#8, 0x08#8] → t'.decodePort = some ⟨.checksumMismatch, none⟩)

/-- The Read and Save request frames are MalformedFrame to DECODE, and a Write request frame decodes as
a Write acknowledgement with the requested codes (R173, which the spec marks as derived). -/
def Obligations.RequestFramesFedToDecode : Prop :=
  (∀ (i : Instr) (s t : State) (tx : List Byte), i = .reqRead ∨ i = .reqSave → exec i s = .next t →
    t.encodePort = some ⟨.ok, tx⟩ →
    ∃ t', exec (.opDecode tx) t = .next t' ∧ t'.decodePort = some ⟨.malformedFrame, none⟩) ∧
  ∀ (a b : Code) (s t : State) (tx : List Byte), exec (.reqWrite a b) s = .next t →
    t.encodePort = some ⟨.ok, tx⟩ →
    ∃ t' ack, exec (.opDecode tx) t = .next t' ∧ t'.decodePort = some ⟨.ok, some ack⟩ ∧
      ack.kind = .write ∧ ack.attA = a ∧ ack.attB = b

/-- R122, R133, R169, R173: a Write line with operands in range is sent, and if the device echoes the frame,
DECODE reports a Write whose dB values are within a quarter dB of the operands. -/
def Obligations.EchoedWriteIsWithinAQuarterDb : Prop :=
  ∀ (qa qb : Rat) (s : State), 0 ≤ qa → qa ≤ 63 / 2 → 0 ≤ qb → qb ≤ 63 / 2 →
    ∃ t tx t' ack, exec (.opEncode (some 0x77#8) [.num qa, .num qb]) s = .next t ∧
      t.encodePort = some ⟨.ok, tx⟩ ∧ exec (.opDecode tx) t = .next t' ∧
      t'.decodePort = some ⟨.ok, some ack⟩ ∧ ack.kind = .write ∧
      |ack.dbA - qa| ≤ 1 / 4 ∧ |ack.dbB - qb| ≤ 1 / 4

/-- R27 (a): DECODE depends on the chunk's length class and its first seven bytes only. -/
def Obligations.DecodeReadsClassAndSevenBytes : Prop :=
  ∀ (rx rx' : List Byte) (s : State), lengthClass rx.length = lengthClass rx'.length →
    rx.take 7 = rx'.take 7 → exec (.opDecode rx) s = exec (.opDecode rx') s

/-- R237: what DECODE answers for the two pieces of an accepted frame split after `k` bytes. -/
def Obligations.SplitFrames : Prop :=
  ∀ (rx : List Byte) (s t : State) (ack : Ack) (k : Nat),
    exec (.opDecode rx) s = .next t → t.decodePort = some ⟨.ok, some ack⟩ → 1 ≤ k → k ≤ 6 →
    ∃ t1 t2 d1 d2, exec (.opDecode (rx.take k)) s = .next t1 ∧ t1.decodePort = some d1 ∧
      exec (.opDecode (rx.drop k)) s = .next t2 ∧ t2.decodePort = some d2 ∧
      (k < 4 → d1 = ⟨.incomplete, none⟩) ∧ (4 ≤ k → d1 = ⟨.malformedFrame, none⟩) ∧
      (4 ≤ k → d2 = ⟨.incomplete, none⟩) ∧
      (k < 4 → ¬ ((rx.drop k)[0]? = some 0xAA#8 ∧ (rx.drop k)[1]? = some 0x55#8) → d2 = ⟨.badMagic, none⟩)

/-! ### Frames: what an instruction leaves unchanged -/

/-- R24, R26, R31: the frame of CMD_R, CMD_W, CMD_S, REQ_READ, REQ_WRITE, REQ_SAVE and OP_ENCODE. They write
`encodePort`; the hidden `crcAcc` and `serBuf` are unspecified after them (R32, I11). That the other ports still
show what they showed, and that `pending` is a queue, is the model's choice (assumption log, entries 5 and 3). -/
def Obligations.EncodeRowsFrame : Prop :=
  ∀ (i : Instr) (s t : State),
    (∃ b args, i = .cmdR b args ∨ i = .cmdW b args ∨ i = .cmdS b args) ∨
      (∃ a b, i = .reqRead ∨ i = .reqSave ∨ i = .reqWrite a b) ∨ (∃ cmd args, i = .opEncode cmd args) →
    exec i s = .next t →
    t.pending = s.pending ∧ t.abandoned = s.abandoned ∧ t.crc16Port = s.crc16Port ∧ t.decodePort = s.decodePort ∧
      t.d2cPort = s.d2cPort ∧ t.c2dPort = s.c2dPort

/-- R24, R27, R31: the frame of ACK_READ, ACK_WRITE, ACK_SAVE and OP_DECODE. They write `decodePort`; the
hidden `crcAcc` is unspecified after them (R32, I11). That the other ports still show what they showed, that the
serializer's buffer, of which the spec fixes no value, is untouched, and that `pending` is a queue is the model's
choice (assumption log, entries 5, 6 and 3). -/
def Obligations.DecodeRowsFrame : Prop :=
  ∀ (i : Instr) (s t : State) (bs : List Byte),
    i = .ackRead bs ∨ i = .ackWrite bs ∨ i = .ackSave bs ∨ i = .opDecode bs → exec i s = .next t →
    t.pending = s.pending ∧ t.abandoned = s.abandoned ∧ t.crc16Port = s.crc16Port ∧ t.encodePort = s.encodePort ∧
      t.d2cPort = s.d2cPort ∧ t.c2dPort = s.c2dPort ∧ t.serBuf = s.serBuf

/-- R24, R25, R31: the frame of OP_CRC16, OP_D2C and OP_C2D. OP_CRC16 writes `crc16Port`, and the hidden
`crcAcc` is unspecified after it (R32, I11); the conversions write their own port. That the other ports still
show what they showed, that `serBuf`, and after a conversion `crcAcc`, of which the spec fixes no value, are
untouched, and that `pending` is a queue is the model's choice (assumption log, entries 5, 6 and 3). -/
def Obligations.ChecksumAndConversionFrame : Prop :=
  ∀ (s t : State),
    (∀ buf n, exec (.opCrc16 buf n) s = .next t →
      t.pending = s.pending ∧ t.abandoned = s.abandoned ∧ t.encodePort = s.encodePort ∧ t.decodePort = s.decodePort ∧
        t.d2cPort = s.d2cPort ∧ t.c2dPort = s.c2dPort ∧ t.serBuf = s.serBuf) ∧
    (∀ v, exec (.opD2c v) s = .next t →
      t.pending = s.pending ∧ t.abandoned = s.abandoned ∧ t.crc16Port = s.crc16Port ∧ t.encodePort = s.encodePort ∧
        t.decodePort = s.decodePort ∧ t.c2dPort = s.c2dPort ∧ t.crcAcc = s.crcAcc ∧ t.serBuf = s.serBuf) ∧
    ∀ c, exec (.opC2d c) s = .next t →
      t.pending = s.pending ∧ t.abandoned = s.abandoned ∧ t.crc16Port = s.crc16Port ∧ t.encodePort = s.encodePort ∧
        t.decodePort = s.decodePort ∧ t.d2cPort = s.d2cPort ∧ t.crcAcc = s.crcAcc ∧ t.serBuf = s.serBuf

/-! ### The whole machine -/

/-- R24 (marked as derived): a transaction on one channel never affects one on another. That the other ports still
show their earlier responses, and that the requests not yet answered stand in `pending`, is the model's choice
(assumption log, entries 5 and 3). -/
def Obligations.ChannelsAreIsolated : Prop :=
  ∀ (i : Instr) (s t : State) (c : Channel), exec i s = .next t → c ≠ channelOf i →
    t.response c = s.response c ∧ t.pending = s.pending ∧ t.abandoned = s.abandoned

/-- R48: the same request gives the same response in every state, hidden registers included; and asked
again it changes no port. That the other channels' earlier responses still stand then is the model's choice
(assumption log, entry 5). -/
def Obligations.SameRequestSameResponse : Prop :=
  ∀ (i : Instr) (s s' : State),
    (∀ t, exec i s = .next t →
      (∃ t', exec i s' = .next t' ∧ t'.response (channelOf i) = t.response (channelOf i)) ∧
      ∃ t2, exec i t = .next t2 ∧ ∀ c, t2.response c = t.response c) ∧
    ∀ f, exec i s = .fault f → exec i s' = .fault f

/-- R51: two requests on different channels can be answered in either order: the ports end the same. The order
in which they are answered, and that both ports still show their responses at the end, is the model's choice
(assumption log, entries 3 and 5). -/
def Obligations.OrderOfRequestsIsUnobservable : Prop :=
  ∀ (s t : State) (r r' : Request) (rest : List Request) (i i' : Instr),
    decode r = .ok i → decode r' = .ok i' → channelOf i ≠ channelOf i' →
    Host.Core.run core 2 { s with pending := r :: r' :: rest } = .next t →
    ∃ t', Host.Core.run core 2 { s with pending := r' :: r :: rest } = .next t' ∧
      t'.pending = t.pending ∧ t'.abandoned = t.abandoned ∧ ∀ c, t'.response c = t.response c

/-- R24, R51, R242: from any state whose first `k` pending requests have a meaning and keep the contract, `k`
steps answer exactly these. After every such `k`, so after each request in turn, every port shows the response
the last request answered on its channel would get alone; and the run is over exactly when none is pending and
no reset has abandoned any. The order of the queue, the ports that keep their responses and one answer a step are
the model's choices (assumption log, entries 3, 5 and 20), and the record of what was abandoned is its own
(entry 21). -/
def Obligations.EveryRequestIsAnsweredAsAlone : Prop :=
  ∀ (s : State) (k : Nat), k ≤ s.pending.length → (∀ r ∈ s.pending.take k, answered r = true) →
    ∃ t, Host.Core.run core k s = .next t ∧ t.pending = s.pending.drop k ∧
      (∀ c, t.response c = shownAfter c (s.response c) (s.pending.take k)) ∧
      t.abandoned = s.abandoned ∧ (t.final = true ↔ k = s.pending.length ∧ s.abandoned = [])

/-- R230, R242: a run in which a reset abandoned a request is never over, whatever the host issues after the reset
and however many steps follow, since no response to that request is ever delivered. That issuing the same request
again does not make up for it is read from R230 (assumption log, entry 21, DEDUCED). -/
def Obligations.AbandonedRequestKeepsTheRunOpen : Prop :=
  ∀ (s t : State) (rs : List Request) (k : Nat), s.pending ≠ [] →
    Host.Core.run core k (rs.foldl State.accept s.afterReset) = .next t →
      t.final = false ∧ s.pending <:+ t.abandoned
end

