-- ==== Sys2Proof/Laws/Crc.lean ====
section
/-! SUPPORT. The Checksum Engine and the byte order, each said once. -/

namespace Sys2Proof.Machine

theorem hiByte_toNat (w : U16) : (hiByte w).toNat = w.toNat / 256 := by
  have := w.isLt
  simp only [hiByte, BitVec.extractLsb'_toNat, Nat.shiftRight_eq_div_pow]
  omega

theorem loByte_toNat (w : U16) : (loByte w).toNat = w.toNat % 256 := by
  simp [loByte, BitVec.extractLsb'_toNat]

theorem joinBytes_toNat (h l : Byte) : (joinBytes h l).toNat = h.toNat * 256 + l.toNat := by
  have := h.isLt
  have := l.isLt
  simp only [joinBytes, BitVec.toNat_ofNat]
  omega

@[simp] theorem hiByte_joinBytes (h l : Byte) : hiByte (joinBytes h l) = h := by
  have := l.isLt
  apply BitVec.eq_of_toNat_eq
  rw [hiByte_toNat, joinBytes_toNat]
  omega

@[simp] theorem loByte_joinBytes (h l : Byte) : loByte (joinBytes h l) = l := by
  have := l.isLt
  apply BitVec.eq_of_toNat_eq
  rw [loByte_toNat, joinBytes_toNat]
  omega

@[simp] theorem joinBytes_hiByte_loByte (w : U16) : joinBytes (hiByte w) (loByte w) = w := by
  apply BitVec.eq_of_toNat_eq
  rw [joinBytes_toNat, hiByte_toNat, loByte_toNat]
  omega

theorem joinBytes_inj {h l h' l' : Byte} : joinBytes h l = joinBytes h' l' ↔ h = h' ∧ l = l' := by
  constructor
  · intro e
    exact ⟨by simpa using congrArg hiByte e, by simpa using congrArg loByte e⟩
  · rintro ⟨rfl, rfl⟩
    rfl

/-- The MAGIC check on two bytes (R162). -/
theorem joinBytes_eq_magic {h l : Byte} : joinBytes h l = magic ↔ h = 0xAA#8 ∧ l = 0x55#8 := by
  have e : magic = joinBytes 0xAA#8 0x55#8 := by decide
  rw [e, joinBytes_inj]

@[simp] theorem frameHeader_eq (code : Byte) : frameHeader code = [0xAA#8, 0x55#8, code] := by
  have h : hiByte magic = 0xAA#8 := by decide
  have l : loByte magic = 0x55#8 := by decide
  simp [frameHeader, h, l]

@[simp] theorem crcFold_nil (acc : U16) : crcFold acc [] = acc := rfl

@[simp] theorem crcFold_cons (acc : U16) (b : Byte) (bs : List Byte) :
    crcFold acc (b :: bs) = crcFold (crcByte acc b) bs := rfl

theorem crcFold_append (acc : U16) (p q : List Byte) :
    crcFold acc (p ++ q) = crcFold (crcFold acc p) q := by
  simp [crcFold]

/-- The whole buffer (R100). -/
@[simp] theorem crc16_length (bs : List Byte) : crc16 bs bs.length = crcFold crcInit bs := by
  simp [crc16]

/-- Bytes past `n` do not count (R100). -/
theorem crc16_append (p q : List Byte) : crc16 (p ++ q) p.length = crcFold crcInit p := by
  simp [crc16]

theorem crc16Checked_of_le {buf : List Byte} {n : Nat} (h : n ≤ buf.length) :
    crc16Checked buf n = some (crc16 buf n) := by
  simp [crc16Checked, h]

theorem crc16Checked_of_lt {buf : List Byte} {n : Nat} (h : buf.length < n) :
    crc16Checked buf n = none := by
  simp [crc16Checked, Nat.not_le.mpr h]

/-- What the serializer does (R130): the CRC of header and payload, high byte first, after them. -/
theorem serialize_eq (P : List Byte) :
    serialize P = P ++ [hiByte (crcFold crcInit P), loByte (crcFold crcInit P)] := by
  have e : (P ++ [0x00#8, 0x00#8]).length - 2 = P.length := by simp
  simp only [serialize, e, crc16_append, memWrite16]
  simp [List.set_append_right]

@[simp] theorem serialize_length (P : List Byte) : (serialize P).length = P.length + 2 := by
  simp [serialize_eq]

@[simp] theorem serialize_take (P : List Byte) : (serialize P).take P.length = P := by
  simp [serialize_eq]

theorem serialize_inj {P Q : List Byte} (h : serialize P = serialize Q) : P = Q := by
  have e : P.length = Q.length := by simpa using congrArg List.length h
  rw [← serialize_take P, h, e, serialize_take]

end Sys2Proof.Machine
end

