-- ==== Sys2Proof/Laws/Operands.lean ====
section
/-! SUPPORT. Rounding and the two conversions, each branch said once. -/

namespace Sys2Proof.Machine

theorem roundT_below_half {tie : TieRule} {t : Rat} (h : t - t.floor < 1 / 2) :
    roundT tie t = t.floor := by
  simp only [roundT, if_pos h]

theorem roundT_above_half {tie : TieRule} {t : Rat} (h : 1 / 2 < t - t.floor) :
    roundT tie t = t.floor + 1 := by
  simp only [roundT, if_neg (not_lt.mpr h.le), if_pos h]

theorem roundT_half_even {t : Rat} (h : t - t.floor = 1 / 2) :
    roundT .halfEven t = if t.floor % 2 = 0 then t.floor else t.floor + 1 := by
  simp only [roundT, h, lt_irrefl, if_false]

theorem roundT_half_away {t : Rat} (h : t - t.floor = 1 / 2) :
    roundT .halfAway t = t.floor + 1 := by
  simp only [roundT, h, lt_irrefl, if_false]

/-- Whatever the tie rule, the result is the floor or the integer after it. -/
theorem roundT_eq_floor_or (tie : TieRule) (t : Rat) :
    roundT tie t = t.floor ∨ roundT tie t = t.floor + 1 := by
  rcases lt_trichotomy (t - t.floor) (1 / 2) with h | h | h
  · exact .inl (roundT_below_half h)
  · cases tie with
    | halfEven =>
      rw [roundT_half_even h]
      split
      · exact .inl rfl
      · exact .inr rfl
    | halfAway => exact .inr (roundT_half_away h)
  · exact .inr (roundT_above_half h)

@[simp] theorem dbToCode_notNum (tie : TieRule) : dbToCode tie .notNum = .error .invalidArgument := rfl

theorem dbToCode_in_range {tie : TieRule} {q : Rat} (h0 : 0 ≤ q) (h1 : q ≤ 63 / 2) :
    dbToCode tie (.num q) = .ok (BitVec.ofInt 6 (roundT tie (2 * q))) := by
  simp only [dbToCode, not_lt.mpr h0, not_lt.mpr h1, or_self, if_false]

theorem dbToCode_out_of_range {tie : TieRule} {q : Rat} (h : q < 0 ∨ 63 / 2 < q) :
    dbToCode tie (.num q) = .error .invalidArgument := by
  simp only [dbToCode, if_pos h]

/-- The field mapper raises InvalidArgument and nothing else (R122). -/
theorem dbToCode_error {tie : TieRule} {v : Operand} {e : EncError} (h : dbToCode tie v = .error e) :
    e = .invalidArgument := by
  cases v with
  | notNum => simpa [dbToCode] using h.symm
  | num q =>
    simp only [dbToCode] at h
    split at h
    · simpa using h.symm
    · cases h

end Sys2Proof.Machine
end

