-- ==== Sys2Proof/Laws/Decoder.lean ====
section
/-! SUPPORT. The code table and the DECODE pipeline, each step said once. -/

namespace Sys2Proof.Machine

/-- Everything a look-up in the code table can answer (R64). -/
theorem lookupCode_cases (c : Byte) :
    (c = 0x01#8 ∧ lookupCode c = some ⟨0x01#8, .read, 5, 7, 0⟩) ∨
    (c = 0x02#8 ∧ lookupCode c = some ⟨0x02#8, .write, 7, 7, 2⟩) ∨
    (c = 0x08#8 ∧ lookupCode c = some ⟨0x08#8, .save, 5, 7, 0⟩) ∨
    (c ≠ 0x01#8 ∧ c ≠ 0x02#8 ∧ c ≠ 0x08#8 ∧ lookupCode c = none) := by
  by_cases h1 : c = 0x01#8
  · exact .inl ⟨h1, by rw [h1]; decide⟩
  by_cases h2 : c = 0x02#8
  · exact .inr (.inl ⟨h2, by rw [h2]; decide⟩)
  by_cases h8 : c = 0x08#8
  · exact .inr (.inr (.inl ⟨h8, by rw [h8]; decide⟩))
  · exact .inr (.inr (.inr ⟨h1, h2, h8, by
      simp [lookupCode, codeTable, Ne.symm h1, Ne.symm h2, Ne.symm h8]⟩))

/-- Every acknowledgement is seven bytes long (R63, R64). -/
theorem lookupCode_ackLen {c : Byte} {e : CodeEntry} (h : lookupCode c = some e) : e.ackLen = 7 := by
  rcases lookupCode_cases c with ⟨_, q⟩ | ⟨_, q⟩ | ⟨_, q⟩ | ⟨_, _, _, q⟩ <;> rw [q] at h <;> cases h <;> rfl

theorem lookupCode_code {c : Byte} {e : CodeEntry} (h : lookupCode c = some e) : c = codeOf e.kind := by
  rcases lookupCode_cases c with ⟨k, q⟩ | ⟨k, q⟩ | ⟨k, q⟩ | ⟨_, _, _, q⟩ <;> rw [q] at h <;> cases h <;> exact k

@[simp] theorem lookupCode_codeOf (k : Kind) : (lookupCode (codeOf k)).map CodeEntry.kind = some k := by
  cases k <;> decide

theorem parseAck_incomplete {rx : List Byte} (h : rx.length < 4) : parseAck rx = .error .incomplete := by
  rw [parseAck, incompleteBelow, if_pos h]

theorem parseAck_badMagic {rx : List Byte} (h : 4 ≤ rx.length) (hm : memRead16 rx 0 ≠ magic) :
    parseAck rx = .error .badMagic := by
  simp only [parseAck, incompleteBelow, if_neg (Nat.not_lt.mpr h), if_pos hm]

theorem parseAck_unknownCode {rx : List Byte} (h : 4 ≤ rx.length) (hm : memRead16 rx 0 = magic)
    (hc : lookupCode (memRead8 rx 2) = none) : parseAck rx = .error .unknownCode := by
  simp only [parseAck, incompleteBelow, if_neg (Nat.not_lt.mpr h), hm, ne_eq, not_true, if_false, hc]

theorem parseAck_body {rx : List Byte} {e : CodeEntry} (h : 4 ≤ rx.length) (hm : memRead16 rx 0 = magic)
    (hc : lookupCode (memRead8 rx 2) = some e) : parseAck rx = parseBody rx e := by
  simp only [parseAck, incompleteBelow, if_neg (Nat.not_lt.mpr h), hm, ne_eq, not_true, if_false, hc]

/-- What an accepted chunk is: all five checks passed, and the record of its fields (R160, R167). -/
theorem parseAck_ok {rx : List Byte} {a : Ack} (h : parseAck rx = .ok a) :
    ∃ e, memRead16 rx 0 = magic ∧ lookupCode (memRead8 rx 2) = some e ∧ rx.length = 7 ∧
      crc16 rx 5 = memRead16 rx 5 ∧ (memRead8 rx 3).toNat ≤ 63 ∧ (memRead8 rx 4).toNat ≤ 63 ∧
      a = ackRecord rx e.kind := by
  simp only [parseAck] at h
  split at h
  · cases h
  split at h
  · cases h
  rename_i hm
  cases hc : lookupCode (memRead8 rx 2) with
  | none => rw [hc] at h; cases h
  | some e =>
    rw [hc] at h
    simp only [parseBody, lookupCode_ackLen hc] at h
    split at h
    · cases h
    split at h
    · cases h
    split at h
    · cases h
    rename_i h7 hcrc hatt
    simp only [not_or, Nat.not_lt, ne_eq, not_not] at hm h7 hcrc hatt
    cases h
    exact ⟨e, hm, rfl, h7, hcrc, hatt.1, hatt.2, rfl⟩

end Sys2Proof.Machine
end

