-- ==== Sys2Proof/Laws/Decode.lean ====
section
/-! SUPPORT. What the decoder of requests answers, each part said once. -/

namespace Sys2Proof

open Sys2Proof.Machine

@[simp] theorem rawValues_exact (vs : List Operand) : rawValues (vs.map RawOperand.exact) = some vs := by
  induction vs with
  | nil => rfl
  | cons v vs ih => simp [rawValues, RawOperand.value, ih]

/-- One operand the port cannot carry is enough to have no operand list (R215 (b)). -/
theorem rawValues_of_inexact {args : List RawOperand} {q : Db} (h : RawOperand.inexact q ∈ args) :
    rawValues args = none := by
  induction args with
  | nil => cases h
  | cons v vs ih =>
    rcases List.mem_cons.mp h with rfl | h
    · simp [rawValues, RawOperand.value]
    · simp [rawValues, ih h]

theorem discriminate_read {b : Byte} (h : tokenMatches 0x52#8 b = true) : discriminate b = some .read := by
  simp only [discriminate, h, if_true]

theorem discriminate_write {b : Byte} (h : tokenMatches 0x57#8 b = true) : discriminate b = some .write := by
  have h' : tokenMatches 0x52#8 b = false := by
    simp only [tokenMatches, beq_iff_eq] at h
    simp [tokenMatches, h]
  simp only [discriminate, h, h', if_true, Bool.false_eq_true, if_false]

theorem discriminate_save {b : Byte} (h : tokenMatches 0x53#8 b = true) : discriminate b = some .save := by
  have h' : tokenMatches 0x52#8 b = false ∧ tokenMatches 0x57#8 b = false := by
    simp only [tokenMatches, beq_iff_eq] at h
    simp [tokenMatches, h]
  simp only [discriminate, h, h'.1, h'.2, if_true, Bool.false_eq_true, if_false]

/-- A recognised chunk is the header of its kind and the bytes after it (R61). -/
theorem recognise_some {rx : List Byte} {k : Kind} {tail : List Byte} (h : recognise rx = some (k, tail)) :
    rx = frameHeader (codeOf k) ++ tail := by
  rcases rx with _ | ⟨m1, _ | ⟨m0, _ | ⟨c, t⟩⟩⟩
  · cases h
  · cases h
  · cases h
  · simp only [recognise] at h
    split at h
    · rename_i hm
      obtain ⟨rfl, rfl⟩ := joinBytes_eq_magic.mp hm
      cases hl : lookupCode c with
      | none => simp [hl] at h
      | some e =>
        simp only [hl, Option.map_some, Option.some.injEq, Prod.mk.injEq] at h
        obtain ⟨rfl, rfl⟩ := h
        simp [lookupCode_code hl]
    · cases h

/-- The header of a kind is recognised as that kind, whatever follows it (R61). -/
@[simp] theorem recognise_header (k : Kind) (tail : List Byte) :
    recognise (0xAA#8 :: 0x55#8 :: codeOf k :: tail) = some (k, tail) := by
  have hm : joinBytes 0xAA#8 0x55#8 = magic := joinBytes_eq_magic.mpr ⟨rfl, rfl⟩
  have hk := lookupCode_codeOf k
  cases hl : lookupCode (codeOf k) with
  | none => simp [hl] at hk
  | some e =>
    simp only [hl, Option.map_some, Option.some.injEq] at hk
    simp [recognise, hm, hl, hk]

end Sys2Proof
end

