-- ==== Sys2Proof/Laws/Encoder.lean ====
section
/-! SUPPORT. The discriminator and the ENCODE pipeline, each stage said once. -/

namespace Sys2Proof.Machine

@[simp] theorem requestPayload_read (a b : Code) : requestPayload .read a b = frameHeader 0x01#8 := rfl

@[simp] theorem requestPayload_save (a b : Code) : requestPayload .save a b = frameHeader 0x08#8 := rfl

@[simp] theorem requestPayload_write (a b : Code) :
    requestPayload .write a b = frameHeader 0x02#8 ++ [a.setWidth 8, b.setWidth 8] := rfl

/-- The payload of every kind starts with MAGIC and the kind's code (R60, R64). -/
theorem requestPayload_header (k : Kind) (a b : Code) :
    (requestPayload k a b).take 3 = frameHeader (codeOf k) := by
  cases k <;> simp [requestPayload, codeOf]

@[simp] theorem encodeRead_nil :
    encodeRead [] = .ok (serialize (requestPayload .read 0#6 0#6)) := rfl

@[simp] theorem encodeRead_cons (v : Operand) (vs : List Operand) :
    encodeRead (v :: vs) = .error .invalidArgument := rfl

@[simp] theorem encodeSave_nil :
    encodeSave [] = .ok (serialize (requestPayload .save 0#6 0#6)) := rfl

@[simp] theorem encodeSave_cons (v : Operand) (vs : List Operand) :
    encodeSave (v :: vs) = .error .invalidArgument := rfl

theorem encodeWrite_ok {tie : TieRule} {a b : Operand} {ca cb : Code} (ha : dbToCode tie a = .ok ca)
    (hb : dbToCode tie b = .ok cb) :
    encodeWrite tie [a, b] = .ok (serialize (requestPayload .write ca cb)) := by
  simp [encodeWrite, ha, hb]

theorem encodeWrite_bad_first {tie : TieRule} {a b : Operand} {e : EncError}
    (ha : dbToCode tie a = .error e) : encodeWrite tie [a, b] = .error .invalidArgument := by
  simp [encodeWrite, ha]

theorem encodeWrite_bad_second {tie : TieRule} {a b : Operand} {e : EncError}
    (hb : dbToCode tie b = .error e) : encodeWrite tie [a, b] = .error .invalidArgument := by
  simp only [encodeWrite, hb]
  split <;> first | rfl | simp_all

theorem encodeWrite_bad_count {tie : TieRule} {args : List Operand} (h : args.length ≠ 2) :
    encodeWrite tie args = .error .invalidArgument := by
  match args, h with
  | [], _ => rfl
  | [_], _ => rfl
  | [_, _], h => simp at h
  | _ :: _ :: _ :: _, _ => rfl

/-- Everything the Write branch can answer: a frame from two mapped codes, or InvalidArgument (R133). -/
theorem encodeWrite_cases (tie : TieRule) (args : List Operand) :
    (∃ a b ca cb, args = [a, b] ∧ dbToCode tie a = .ok ca ∧ dbToCode tie b = .ok cb ∧
      encodeWrite tie args = .ok (serialize (requestPayload .write ca cb))) ∨
    encodeWrite tie args = .error .invalidArgument := by
  by_cases hl : args.length = 2
  · obtain ⟨a, b, rfl⟩ := List.length_eq_two.mp hl
    cases ha : dbToCode tie a with
    | error e => exact .inr (encodeWrite_bad_first ha)
    | ok ca =>
      cases hb : dbToCode tie b with
      | error e => exact .inr (encodeWrite_bad_second hb)
      | ok cb => exact .inl ⟨a, b, ca, cb, rfl, ha, hb, encodeWrite_ok ha hb⟩
  · exact .inr (encodeWrite_bad_count hl)

/-- Everything the stages after the discriminator can answer: a frame of the kind's layout, or
InvalidArgument (R120, R125). -/
theorem encodeKind_cases (tie : TieRule) (k : Kind) (args : List Operand) :
    (∃ a b, encodeKind tie k args = .ok (serialize (requestPayload k a b))) ∨
    encodeKind tie k args = .error .invalidArgument := by
  cases k with
  | read =>
    cases args with
    | nil => exact .inl ⟨0#6, 0#6, rfl⟩
    | cons v vs => exact .inr rfl
  | save =>
    cases args with
    | nil => exact .inl ⟨0#6, 0#6, rfl⟩
    | cons v vs => exact .inr rfl
  | write =>
    rcases encodeWrite_cases tie args with ⟨_, _, ca, cb, _, _, _, h⟩ | h
    · exact .inl ⟨ca, cb, h⟩
    · exact .inr h

theorem encodeLine_none (tie : TieRule) (args : List Operand) :
    encodeLine tie none args = .error .unknownCommand := rfl

theorem encodeLine_unknown {tie : TieRule} {b : Byte} {args : List Operand} (h : discriminate b = none) :
    encodeLine tie (some b) args = .error .unknownCommand := by
  simp only [encodeLine, h]

theorem encodeLine_known {tie : TieRule} {b : Byte} {k : Kind} {args : List Operand}
    (h : discriminate b = some k) : encodeLine tie (some b) args = encodeKind tie k args := by
  simp only [encodeLine, h]

end Sys2Proof.Machine
end

