-- ==== Sys2Proof/Laws/PerInstr.lean ====
section
/-! SUPPORT. One statement about every row of the opcode table: a well-formed instruction's encoding shows,
under the row's mask, the row's match value (R61, R66, R71, R72). -/

namespace Sys2Proof.Laws.TableRow

/-- The number the encoding of `i` shows lies in the row's width and matches the row. -/
def Statement (i : Instr) : Prop :=
  i.wellFormed = true →
    ∃ w, requestWord (encode i) = some w ∧ w < 2 ^ (opcodeRow i).width ∧
      w &&& (opcodeRow i).mask = (opcodeRow i).value

/-- A token byte that matches as bytes matches as a number (R66). -/
theorem token (m b : Byte) (h : tokenMatches m b = true) : b.toNat < 2 ^ 8 ∧ b.toNat &&& 0xDF = m.toNat := by
  simp only [tokenMatches, beq_iff_eq] at h
  exact ⟨b.isLt, by rw [← h, BitVec.toNat_and]; rfl⟩

/-- A frame's header number is its row's match value (R61). -/
theorem header (code : Byte) (tail : List Byte) :
    headerOf (Machine.frameHeader code ++ tail) = some (0xAA5500 + code.toNat) := by
  simp [headerOf]

theorem cmdR (cmd : Byte) (args : List Operand) : Statement (.cmdR cmd args) :=
  fun h => ⟨_, rfl, token 0x52#8 cmd h⟩

theorem cmdW (cmd : Byte) (args : List Operand) : Statement (.cmdW cmd args) :=
  fun h => ⟨_, rfl, token 0x57#8 cmd h⟩

theorem cmdS (cmd : Byte) (args : List Operand) : Statement (.cmdS cmd args) :=
  fun h => ⟨_, rfl, token 0x53#8 cmd h⟩

theorem reqRead : Statement .reqRead :=
  fun _ => ⟨_, header 0x01#8 [], by simp [opcodeRow]⟩

theorem reqWrite (attA attB : Code) : Statement (.reqWrite attA attB) :=
  fun _ => ⟨_, header 0x02#8 [attA.setWidth 8, attB.setWidth 8], by simp [opcodeRow]⟩

theorem reqSave : Statement .reqSave :=
  fun _ => ⟨_, header 0x08#8 [], by simp [opcodeRow]⟩

theorem ackRead (tail : List Byte) : Statement (.ackRead tail) :=
  fun _ => ⟨_, header 0x01#8 tail, by simp [opcodeRow]⟩

theorem ackWrite (tail : List Byte) : Statement (.ackWrite tail) :=
  fun _ => ⟨_, header 0x02#8 tail, by simp [opcodeRow]⟩

theorem ackSave (tail : List Byte) : Statement (.ackSave tail) :=
  fun _ => ⟨_, header 0x08#8 tail, by simp [opcodeRow]⟩

theorem opCrc16 (buf : List Byte) (n : Nat) : Statement (.opCrc16 buf n) :=
  fun _ => ⟨0, rfl, by simp [opcodeRow]⟩

theorem opEncode (cmd : Option Byte) (args : List Operand) : Statement (.opEncode cmd args) :=
  fun _ => ⟨1, rfl, by simp [opcodeRow]⟩

theorem opDecode (rx : List Byte) : Statement (.opDecode rx) :=
  fun _ => ⟨2, rfl, by simp [opcodeRow]⟩

theorem opD2c (v : Operand) : Statement (.opD2c v) :=
  fun _ => ⟨3, rfl, by simp [opcodeRow]⟩

theorem opC2d (c : Code) : Statement (.opC2d c) :=
  fun _ => ⟨4, rfl, by simp [opcodeRow]⟩

end Sys2Proof.Laws.TableRow
end

