-- ==== Sys2Proof/Laws/State.lean ====
section
/-! SUPPORT. What each delivery changes and keeps: one lemma for each field, so that no proof unfolds a
record update. -/

namespace Sys2Proof.Machine

section
variable (s : State) (r : EncResp) (d : DecResp) (w : D2cResp) (crc : U16) (db : Db)

@[simp] theorem deliverCrc16_pending : (deliverCrc16 crc s).pending = s.pending := rfl
@[simp] theorem deliverCrc16_abandoned : (deliverCrc16 crc s).abandoned = s.abandoned := rfl
@[simp] theorem deliverCrc16_crc16Port : (deliverCrc16 crc s).crc16Port = some crc := rfl
@[simp] theorem deliverCrc16_encodePort : (deliverCrc16 crc s).encodePort = s.encodePort := rfl
@[simp] theorem deliverCrc16_decodePort : (deliverCrc16 crc s).decodePort = s.decodePort := rfl
@[simp] theorem deliverCrc16_d2cPort : (deliverCrc16 crc s).d2cPort = s.d2cPort := rfl
@[simp] theorem deliverCrc16_c2dPort : (deliverCrc16 crc s).c2dPort = s.c2dPort := rfl
@[simp] theorem deliverCrc16_crcAcc : (deliverCrc16 crc s).crcAcc = Config.freeAcc s.fresh := rfl
@[simp] theorem deliverCrc16_serBuf : (deliverCrc16 crc s).serBuf = s.serBuf := rfl
@[simp] theorem deliverCrc16_fresh : (deliverCrc16 crc s).fresh = s.fresh + 1 := rfl

@[simp] theorem deliverEncode_pending : (deliverEncode r s).pending = s.pending := rfl
@[simp] theorem deliverEncode_abandoned : (deliverEncode r s).abandoned = s.abandoned := rfl
@[simp] theorem deliverEncode_crc16Port : (deliverEncode r s).crc16Port = s.crc16Port := rfl
@[simp] theorem deliverEncode_encodePort : (deliverEncode r s).encodePort = some r := rfl
@[simp] theorem deliverEncode_decodePort : (deliverEncode r s).decodePort = s.decodePort := rfl
@[simp] theorem deliverEncode_d2cPort : (deliverEncode r s).d2cPort = s.d2cPort := rfl
@[simp] theorem deliverEncode_c2dPort : (deliverEncode r s).c2dPort = s.c2dPort := rfl
@[simp] theorem deliverEncode_crcAcc : (deliverEncode r s).crcAcc = Config.freeAcc s.fresh := rfl
@[simp] theorem deliverEncode_serBuf : (deliverEncode r s).serBuf = Config.freeBuf s.fresh := rfl
@[simp] theorem deliverEncode_fresh : (deliverEncode r s).fresh = s.fresh + 1 := rfl

@[simp] theorem deliverDecode_pending : (deliverDecode d s).pending = s.pending := rfl
@[simp] theorem deliverDecode_abandoned : (deliverDecode d s).abandoned = s.abandoned := rfl
@[simp] theorem deliverDecode_crc16Port : (deliverDecode d s).crc16Port = s.crc16Port := rfl
@[simp] theorem deliverDecode_encodePort : (deliverDecode d s).encodePort = s.encodePort := rfl
@[simp] theorem deliverDecode_decodePort : (deliverDecode d s).decodePort = some d := rfl
@[simp] theorem deliverDecode_d2cPort : (deliverDecode d s).d2cPort = s.d2cPort := rfl
@[simp] theorem deliverDecode_c2dPort : (deliverDecode d s).c2dPort = s.c2dPort := rfl
@[simp] theorem deliverDecode_crcAcc : (deliverDecode d s).crcAcc = Config.freeAcc s.fresh := rfl
@[simp] theorem deliverDecode_serBuf : (deliverDecode d s).serBuf = s.serBuf := rfl
@[simp] theorem deliverDecode_fresh : (deliverDecode d s).fresh = s.fresh + 1 := rfl

@[simp] theorem deliverD2c_pending : (deliverD2c w s).pending = s.pending := rfl
@[simp] theorem deliverD2c_abandoned : (deliverD2c w s).abandoned = s.abandoned := rfl
@[simp] theorem deliverD2c_crc16Port : (deliverD2c w s).crc16Port = s.crc16Port := rfl
@[simp] theorem deliverD2c_encodePort : (deliverD2c w s).encodePort = s.encodePort := rfl
@[simp] theorem deliverD2c_decodePort : (deliverD2c w s).decodePort = s.decodePort := rfl
@[simp] theorem deliverD2c_d2cPort : (deliverD2c w s).d2cPort = some w := rfl
@[simp] theorem deliverD2c_c2dPort : (deliverD2c w s).c2dPort = s.c2dPort := rfl
@[simp] theorem deliverD2c_crcAcc : (deliverD2c w s).crcAcc = s.crcAcc := rfl
@[simp] theorem deliverD2c_serBuf : (deliverD2c w s).serBuf = s.serBuf := rfl
@[simp] theorem deliverD2c_fresh : (deliverD2c w s).fresh = s.fresh := rfl

@[simp] theorem deliverC2d_pending : (deliverC2d db s).pending = s.pending := rfl
@[simp] theorem deliverC2d_abandoned : (deliverC2d db s).abandoned = s.abandoned := rfl
@[simp] theorem deliverC2d_crc16Port : (deliverC2d db s).crc16Port = s.crc16Port := rfl
@[simp] theorem deliverC2d_encodePort : (deliverC2d db s).encodePort = s.encodePort := rfl
@[simp] theorem deliverC2d_decodePort : (deliverC2d db s).decodePort = s.decodePort := rfl
@[simp] theorem deliverC2d_d2cPort : (deliverC2d db s).d2cPort = s.d2cPort := rfl
@[simp] theorem deliverC2d_c2dPort : (deliverC2d db s).c2dPort = some db := rfl
@[simp] theorem deliverC2d_crcAcc : (deliverC2d db s).crcAcc = s.crcAcc := rfl
@[simp] theorem deliverC2d_serBuf : (deliverC2d db s).serBuf = s.serBuf := rfl
@[simp] theorem deliverC2d_fresh : (deliverC2d db s).fresh = s.fresh := rfl

variable (q : Request)

@[simp] theorem accept_pending : (s.accept q).pending = s.pending ++ [q] := rfl
@[simp] theorem accept_abandoned : (s.accept q).abandoned = s.abandoned := rfl
@[simp] theorem accept_crc16Port : (s.accept q).crc16Port = s.crc16Port := rfl
@[simp] theorem accept_encodePort : (s.accept q).encodePort = s.encodePort := rfl
@[simp] theorem accept_decodePort : (s.accept q).decodePort = s.decodePort := rfl
@[simp] theorem accept_d2cPort : (s.accept q).d2cPort = s.d2cPort := rfl
@[simp] theorem accept_c2dPort : (s.accept q).c2dPort = s.c2dPort := rfl
@[simp] theorem accept_crcAcc : (s.accept q).crcAcc = s.crcAcc := rfl
@[simp] theorem accept_serBuf : (s.accept q).serBuf = s.serBuf := rfl
@[simp] theorem accept_fresh : (s.accept q).fresh = s.fresh := rfl

@[simp] theorem afterReset_pending : s.afterReset.pending = [] := rfl
@[simp] theorem afterReset_abandoned : s.afterReset.abandoned = s.abandoned ++ s.pending := rfl
@[simp] theorem afterReset_crc16Port : s.afterReset.crc16Port = none := rfl
@[simp] theorem afterReset_encodePort : s.afterReset.encodePort = none := rfl
@[simp] theorem afterReset_decodePort : s.afterReset.decodePort = none := rfl
@[simp] theorem afterReset_d2cPort : s.afterReset.d2cPort = none := rfl
@[simp] theorem afterReset_c2dPort : s.afterReset.c2dPort = none := rfl
@[simp] theorem afterReset_crcAcc : s.afterReset.crcAcc = Config.freeAcc s.fresh := rfl
@[simp] theorem afterReset_serBuf : s.afterReset.serBuf = Config.freeBuf s.fresh := rfl
@[simp] theorem afterReset_fresh : s.afterReset.fresh = s.fresh + 1 := rfl

end

end Sys2Proof.Machine
end

