-- ==== Sys2Proof/Laws/Step.lean ====
section
/-! SUPPORT. What a step and an instruction can do, said once. -/

namespace Sys2Proof.Machine

/-- The result an instruction on the ENCODE channel delivers. -/
def encodeResult : Instr → Except EncError (List Byte)
  | .cmdR _ args => encodeRead args
  | .cmdW _ args => encodeWrite Config.tieRule args
  | .cmdS _ args => encodeSave args
  | .reqRead => .ok (serialize (requestPayload .read 0#6 0#6))
  | .reqWrite a b => .ok (serialize (requestPayload .write a b))
  | .reqSave => .ok (serialize (requestPayload .save 0#6 0#6))
  | .opEncode cmd args => encodeLine Config.tieRule cmd args
  | _ => .error .unknownCommand

/-- The chunk an instruction on the DECODE channel parses. -/
def chunkOf : Instr → List Byte
  | .ackRead tail => frameHeader 0x01#8 ++ tail
  | .ackWrite tail => frameHeader 0x02#8 ++ tail
  | .ackSave tail => frameHeader 0x08#8 ++ tail
  | .opDecode rx => rx
  | _ => []

theorem exec_encode {i : Instr} (h : channelOf i = .encode) (s : State) :
    exec i s = .next (deliverEncode (encResponse (encodeResult i)) s) := by
  cases i <;> first | rfl | cases h

theorem exec_decode {i : Instr} (h : channelOf i = .decode) (s : State) :
    exec i s = .next (deliverDecode (decResponse (parseAck (chunkOf i))) s) := by
  cases i <;> first | rfl | cases h

theorem exec_opCrc16 (buf : List Byte) (n : Nat) (s : State) :
    exec (.opCrc16 buf n) s =
      if n ≤ buf.length then .next (deliverCrc16 (crc16 buf n) s) else .fault .crcLengthContract := by
  simp only [exec, execOpCrc16, crc16Checked]
  split <;> simp_all

theorem exec_opD2c (v : Operand) (s : State) :
    exec (.opD2c v) s = .next (deliverD2c (d2cResponse (dbToCode Config.tieRule v)) s) := rfl

theorem exec_opC2d (c : Code) (s : State) :
    exec (.opC2d c) s = .next (deliverC2d (codeToDb c) s) := rfl

/-- Everything an instruction can do: one delivery on its channel, or the one fault (R24, R214). -/
theorem exec_cases (i : Instr) (s : State) :
    (∃ r, channelOf i = .encode ∧ exec i s = .next (deliverEncode (encResponse r) s)) ∨
    (∃ r, channelOf i = .decode ∧ exec i s = .next (deliverDecode (decResponse r) s)) ∨
    (∃ buf n, i = .opCrc16 buf n ∧ n ≤ buf.length ∧
      exec i s = .next (deliverCrc16 (crc16 buf n) s)) ∨
    (∃ buf n, i = .opCrc16 buf n ∧ buf.length < n ∧ exec i s = .fault .crcLengthContract) ∨
    (∃ v, i = .opD2c v ∧ exec i s = .next (deliverD2c (d2cResponse (dbToCode Config.tieRule v)) s)) ∨
    (∃ c, i = .opC2d c ∧ exec i s = .next (deliverC2d (codeToDb c) s)) := by
  cases hc : channelOf i with
  | encode => exact .inl ⟨_, rfl, exec_encode hc s⟩
  | decode => exact .inr (.inl ⟨_, rfl, exec_decode hc s⟩)
  | crc16 =>
    cases i <;> simp [channelOf] at hc
    case opCrc16 buf n =>
      by_cases h : n ≤ buf.length
      · exact .inr (.inr (.inl ⟨buf, n, rfl, h, by rw [exec_opCrc16, if_pos h]⟩))
      · exact .inr (.inr (.inr (.inl ⟨buf, n, rfl, Nat.not_le.mp h, by rw [exec_opCrc16, if_neg h]⟩)))
  | d2c =>
    cases i <;> simp [channelOf] at hc
    case opD2c v => exact .inr (.inr (.inr (.inr (.inl ⟨v, rfl, rfl⟩))))
  | c2d =>
    cases i <;> simp [channelOf] at hc
    case opC2d c => exact .inr (.inr (.inr (.inr (.inr ⟨c, rfl, rfl⟩))))

/-- An instruction answers a next state in every state exactly when it keeps the contract (R214). -/
theorem exec_next_iff_contractKept (i : Instr) (s : State) :
    (∃ t, exec i s = .next t) ↔ contractKept i = true := by
  rcases exec_cases i s with ⟨r, hc, e⟩ | ⟨r, hc, e⟩ | ⟨buf, n, rfl, hn, e⟩ | ⟨buf, n, rfl, hn, e⟩ |
    ⟨v, rfl, e⟩ | ⟨c, rfl, e⟩ <;> simp [e, contractKept]
  · cases i <;> first | rfl | cases hc
  · cases i <;> first | rfl | cases hc
  · exact hn
  · exact hn

theorem answered_iff (r : Request) :
    answered r = true ↔ ∃ i, decode r = .ok i ∧ contractKept i = true := by
  unfold answered
  split <;> simp_all

theorem final_iff (s : State) : s.final = true ↔ s.pending = [] ∧ s.abandoned = [] := by
  simp [State.final]

/-- No instruction reads or writes the run's record of abandoned requests. -/
theorem exec_abandoned {i : Instr} {s t : State} (h : exec i s = .next t) : t.abandoned = s.abandoned := by
  rcases exec_cases i s with ⟨_, _, e⟩ | ⟨_, _, e⟩ | ⟨_, _, _, _, e⟩ | ⟨_, _, _, _, e⟩ | ⟨_, _, e⟩ | ⟨_, _, e⟩ <;>
    rw [e] at h <;> cases h <;> rfl

/-- No instruction reads or writes the requests behind it. -/
theorem exec_pending {i : Instr} {s t : State} (h : exec i s = .next t) : t.pending = s.pending := by
  rcases exec_cases i s with ⟨_, _, e⟩ | ⟨_, _, e⟩ | ⟨_, _, _, _, e⟩ | ⟨_, _, _, _, e⟩ | ⟨_, _, e⟩ | ⟨_, _, e⟩ <;>
    rw [e] at h <;> cases h <;> rfl

theorem shownAfter_cons {r : Request} {i : Instr} (h : decode r = .ok i) (c : Channel)
    (old : Option Response) (rs : List Request) :
    shownAfter c old (r :: rs) = shownAfter c (if channelOf i = c then responseAlone i else old) rs := by
  simp only [shownAfter, h]

theorem step_idle {s : State} (h : s.pending = []) : step s = .next s := by
  simp only [step, h]

theorem step_decoded {s : State} {r : Request} {rest : List Request} {i : Instr}
    (h : s.pending = r :: rest) (hd : decode r = .ok i) :
    step s = exec i { s with pending := rest } := by
  simp only [step, h, hd]

theorem step_rejected {s : State} {r : Request} {rest : List Request} {why : Reject}
    (h : s.pending = r :: rest) (hd : decode r = .error why) :
    step s = .refused (refusalOf why) := by
  simp only [step, h, hd]

/-- Everything a step that answers a state can do: nothing, or the oldest request's instruction. -/
theorem step_next_cases {s t : State} (h : step s = .next t) :
    (s.pending = [] ∧ t = s) ∨
      ∃ r rest i, s.pending = r :: rest ∧ decode r = .ok i ∧ exec i { s with pending := rest } = .next t := by
  cases hp : s.pending with
  | nil => rw [step_idle hp] at h; cases h; exact .inl ⟨rfl, rfl⟩
  | cons r rest =>
    cases hd : decode r with
    | ok i => exact .inr ⟨r, rest, i, rfl, hd, by rw [← step_decoded hp hd, h]⟩
    | error why => rw [step_rejected hp hd] at h; cases h

/-- No step changes the run's record of abandoned requests: only a reset does. -/
theorem step_abandoned {s t : State} (h : step s = .next t) : t.abandoned = s.abandoned := by
  rcases step_next_cases h with ⟨_, rfl⟩ | ⟨_, rest, _, _, _, e⟩
  · rfl
  · exact exec_abandoned (s := { s with pending := rest }) e

theorem run_zero (s : State) : Host.Core.run core 0 s = .next s := rfl

theorem run_succ_of_next {s t : State} (k : Nat) (h : step s = .next t) :
    Host.Core.run core (k + 1) s = Host.Core.run core k t := by
  simp only [Host.Core.run, core, h]

theorem run_succ_of_fault {s : State} {f : Fault} (k : Nat) (h : step s = .fault f) :
    Host.Core.run core (k + 1) s = .fault f := by
  simp only [Host.Core.run, core, h]

theorem run_succ_of_refused {s : State} {r : Refusal} (k : Nat) (h : step s = .refused r) :
    Host.Core.run core (k + 1) s = .refused r := by
  simp only [Host.Core.run, core, h]

end Sys2Proof.Machine
end

