-- ==== Sys2Proof/Tests/Slice0.lean ====
section
/-! SUPPORT. Tests against the vectors of spec/95_test_vectors.md and the encoding tables, the smoke test of
WellFormed, and for each obligation with hypotheses a witness that meets them. -/

namespace Sys2Proof.Tests

open Sys2Proof.Machine

-- One thread for all the small decisions below.
set_option Elab.async false

/-! ### Helpers -/

/-- What the port of `c` shows after one step of a block that has just accepted `r`. -/
def after (r : Request) (c : Channel) : Option Response :=
  match step (State.reset.accept r) with
  | .next t => t.response c
  | .fault _ => none
  | .refused _ => none

/-- A step of a block that has just accepted `r` stops with this fault. -/
def faults (r : Request) (f : Fault) : Bool :=
  match step (State.reset.accept r) with
  | .fault g => g == f
  | .next _ => false
  | .refused _ => false

/-- A step of a block that has just accepted `r` stops with this refusal. -/
def refuses (r : Request) (f : Refusal) : Bool :=
  match step (State.reset.accept r) with
  | .refused g => g == f
  | .next _ => false
  | .fault _ => false

/-- The first step after reset on a word of the opcode table ends in a next state with a response. -/
def wordRuns (nbits w : Nat) (c : Channel) : Bool :=
  match step (State.reset.withFetchWord nbits w) with
  | .next t => (t.response c).isSome
  | .fault _ => false
  | .refused _ => false

/-- An error response of DECODE. -/
def decErr (d : DecStatus) : Option Response := some (.decode ⟨d, none⟩)

/-- An error response of ENCODE. -/
def encErr (e : EncStatus) : Option Response := some (.encode ⟨e, []⟩)

/-- The response of ENCODE to a complete frame. -/
def sends (tx : List Byte) : Option Response := some (.encode ⟨.ok, tx⟩)

/-- The Write acknowledgement of V-DEC-9. -/
def goodAck : List Byte := [0xAA#8, 0x55#8, 0x02#8, 0x02#8, 0x05#8, 0x77#8, 0x4D#8]

/-! ### WellFormed: an ill-formed term for each check (R66) -/

theorem test_wellFormed_refuses_cmdR : (Instr.cmdR 0x77#8 []).wellFormed = false := by decide

theorem test_wellFormed_refuses_cmdW : (Instr.cmdW 0x37#8 []).wellFormed = false := by decide

theorem test_wellFormed_refuses_cmdS : (Instr.cmdS 0xD3#8 []).wellFormed = false := by decide

theorem test_wellFormed_takes_both_cases :
    (Instr.cmdR 0x52#8 []).wellFormed = true ∧ (Instr.cmdR 0x72#8 []).wellFormed = true ∧
      (Instr.cmdW 0x57#8 []).wellFormed = true ∧ (Instr.cmdW 0x77#8 []).wellFormed = true ∧
      (Instr.cmdS 0x53#8 []).wellFormed = true ∧ (Instr.cmdS 0x73#8 []).wellFormed = true := by decide

/-! ### Decoding: words written out bit by bit from the encodings of the table -/

/-- CMD_R is `01x10010`. -/
theorem test_decode_cmdR : decode (.encode (some 0b01010010#8) []) = .ok (.cmdR 0x52#8 []) := by decide

/-- CMD_W is `01x10111`. -/
theorem test_decode_cmdW : decode (.encode (some 0b01110111#8) [.exact .notNum, .exact .notNum])
    = .ok (.cmdW 0x77#8 [.notNum, .notNum]) := by decide

/-- CMD_S is `01x10011`. -/
theorem test_decode_cmdS : decode (.encode (some 0b01110011#8) []) = .ok (.cmdS 0x73#8 []) := by decide

/-- REQ_READ is `10101010 01010101 00000001 c…c`, its CRC 70AF (V-CRC-6). -/
theorem test_decode_reqRead :
    decodeRequestFrame [0b10101010#8, 0b01010101#8, 0b00000001#8, 0x70#8, 0xAF#8] = some .reqRead := by
  decide +kernel

/-- REQ_WRITE is `10101010 01010101 00000010 00aaaaaa 00bbbbbb c…c`, the bytes of V-ENC-13. -/
theorem test_decode_reqWrite :
    decodeRequestFrame [0b10101010#8, 0b01010101#8, 0b00000010#8, 0b00000000#8, 0b00111111#8, 0x04#8, 0xCC#8]
      = some (.reqWrite 0#6 63#6) := by decide +kernel

/-- REQ_SAVE is `10101010 01010101 00001000 c…c`, its CRC 766F (V-CRC-7). -/
theorem test_decode_reqSave :
    decodeRequestFrame [0b10101010#8, 0b01010101#8, 0b00001000#8, 0x76#8, 0x6F#8] = some .reqSave := by
  decide +kernel

/-- Bits [7:6] of an ATT byte are 0 in a request (R62). -/
theorem test_decode_refuses_wide_att :
    decode (.serializer [0xAA#8, 0x55#8, 0x02#8, 0x40#8, 0x00#8]) = .error .notARequestLayout := by decide

/-- ACK_READ is `10101010 01010101 00000001 a…a b…b c…c`. -/
theorem test_decode_ackRead :
    decode (.decode [0b10101010#8, 0b01010101#8, 0b00000001#8, 0x02#8, 0x05#8, 0x77#8, 0xBD#8])
      = .ok (.ackRead [0x02#8, 0x05#8, 0x77#8, 0xBD#8]) := by decide

/-- ACK_WRITE is `10101010 01010101 00000010 a…a b…b c…c`. -/
theorem test_decode_ackWrite : decode (.decode goodAck) = .ok (.ackWrite [0x02#8, 0x05#8, 0x77#8, 0x4D#8]) := by
  decide

/-- ACK_SAVE is `10101010 01010101 00001000 a…a b…b c…c`. -/
theorem test_decode_ackSave :
    decode (.decode [0b10101010#8, 0b01010101#8, 0b00001000#8]) = .ok (.ackSave []) := by decide

/-- The OP values of R71. -/
theorem test_decode_op :
    decode (.mux 0b000#3 { Lanes.zero with buf := [0x01#8], n := 1 }) = .ok (.opCrc16 [0x01#8] 1) ∧
      decode (.mux 0b001#3 { Lanes.zero with cmd := some 0x72#8 }) = .ok (.opEncode (some 0x72#8) []) ∧
      decode (.mux 0b010#3 { Lanes.zero with rx := [0x00#8] }) = .ok (.opDecode [0x00#8]) ∧
      decode (.mux 0b011#3 { Lanes.zero with v := .exact .notNum }) = .ok (.opD2c .notNum) ∧
      decode (.mux 0b100#3 { Lanes.zero with c := 40#6 }) = .ok (.opC2d 40#6) := by decide

/-- The words of the opcode table, as the host numbers them. -/
theorem test_table_words :
    decodeTableWord 8 0x52 = some (.cmdR 0x52#8 []) ∧ decodeTableWord 8 0x57 = some (.cmdW 0x57#8 []) ∧
      decodeTableWord 8 0x53 = some (.cmdS 0x53#8 []) ∧ decodeTableWord 40 0xAA5501 = some .reqRead ∧
      decodeTableWord 40 0xAA5508 = some .reqSave ∧
      decodeTableWord 24 0xAA5501 = some (.ackRead [0#8, 0#8, 0#8, 0#8]) ∧
      decodeTableWord 24 0xAA5502 = some (.ackWrite [0#8, 0#8, 0#8, 0#8]) ∧
      decodeTableWord 24 0xAA5508 = some (.ackSave [0#8, 0#8, 0#8, 0#8]) ∧
      decodeTableWord 8 0 = some (.opCrc16 [] 0) ∧ decodeTableWord 8 4 = some (.opC2d 0#6) ∧
      decodeTableWord 8 5 = none := by decide +kernel

theorem test_table_words_run :
    wordRuns 8 0x52 .encode = true ∧ wordRuns 40 0xAA5501 .encode = true ∧ wordRuns 24 0xAA5502 .decode = true ∧
      wordRuns 8 0 .crc16 = true ∧ wordRuns 8 1 .encode = true ∧ wordRuns 8 2 .decode = true ∧
      wordRuns 8 3 .d2c = true ∧ wordRuns 8 4 .c2d = true := by decide +kernel

/-! ### CRC16 (95 §2.1) -/

/-- V-CRC-1: the check value of ASCII 123456789. -/
theorem test_crc_check_value :
    after (.crc16 [0x31#8, 0x32#8, 0x33#8, 0x34#8, 0x35#8, 0x36#8, 0x37#8, 0x38#8, 0x39#8] 9) .crc16
      = some (.crc16 0x4B37#16) := by decide +kernel

/-- The first rounds of V-CRC-5's trace. -/
theorem test_crc_rounds : crcRounds 1 0xFFFE#16 = 0x7FFF#16 ∧ crcRounds 2 0xFFFE#16 = 0x9FFE#16 ∧
    crcRounds 8 0xFFFE#16 = 0x807E#16 := by decide +kernel

/-- V-CRC-18. -/
theorem test_crc_contract : faults (.crc16 [0xAA#8, 0x55#8] 5) .crcLengthContract = true := by decide +kernel

/-! ### Conversions (95 §2.2, §2.3) -/

/-- V-D2C-4 and V-D2C-5. -/
theorem test_d2c_in_range : after (.d2c (.exact (.num (5 / 2)))) .d2c = some (.d2c ⟨.ok, some 5#6⟩) ∧
    after (.d2c (.exact (.num (63 / 2)))) .d2c = some (.d2c ⟨.ok, some 63#6⟩) := by decide +kernel

/-- V-D2C-18, V-D2C-19 and V-D2C-21. -/
theorem test_d2c_refused_values :
    after (.d2c (.exact (.num (-1 / 10)))) .d2c = some (.d2c ⟨.invalidArgument, none⟩) ∧
      after (.d2c (.exact (.num (3151 / 100)))) .d2c = some (.d2c ⟨.invalidArgument, none⟩) ∧
      after (.d2c (.exact .notNum)) .d2c = some (.d2c ⟨.invalidArgument, none⟩) := by decide +kernel

/-- V-D2C-8, V-D2C-10 and V-D2C-14 under both tie rules. -/
theorem test_ties : roundT .halfEven (2 * (1 / 4)) = 0 ∧ roundT .halfAway (2 * (1 / 4)) = 1 ∧
    roundT .halfEven (2 * (5 / 4)) = 2 ∧ roundT .halfAway (2 * (5 / 4)) = 3 ∧
    roundT .halfEven (2 * (125 / 4)) = 62 ∧ roundT .halfAway (2 * (125 / 4)) = 63 := by decide +kernel

/-- V-C2D-2 and V-C2D-5. -/
theorem test_c2d : after (.c2d 1#6) .c2d = some (.c2d (1 / 2)) ∧ after (.c2d 63#6) .c2d = some (.c2d (63 / 2)) := by
  decide +kernel

/-! ### ENCODE (95 §2.4) -/

/-- V-ENC-2 and V-ENC-31. -/
theorem test_encode_read : after (.encode (some 0x52#8) []) .encode = sends [0xAA#8, 0x55#8, 0x01#8, 0x70#8, 0xAF#8] ∧
    after (.encode (some 0x72#8) [.exact (.num 5)]) .encode = encErr .invalidArgument := by decide +kernel

/-- V-ENC-9 and V-ENC-17. -/
theorem test_encode_write :
    after (.encode (some 0x77#8) [.exact (.num 1), .exact (.num (5 / 2))]) .encode
      = sends [0xAA#8, 0x55#8, 0x02#8, 0x02#8, 0x05#8, 0x77#8, 0x4D#8] ∧
    after (.encode (some 0x77#8) [.exact (.num (13 / 10)), .exact (.num (1 / 5))]) .encode
      = sends [0xAA#8, 0x55#8, 0x02#8, 0x03#8, 0x00#8, 0xE4#8, 0x8C#8] := by decide +kernel

/-- V-ENC-23, V-ENC-26 and V-ENC-28. -/
theorem test_encode_write_errors :
    after (.encode (some 0x77#8) [.exact (.num 0), .exact (.num (3151 / 100))]) .encode = encErr .invalidArgument ∧
      after (.encode (some 0x77#8) [.exact (.num 1)]) .encode = encErr .invalidArgument ∧
      after (.encode (some 0x77#8) [.exact (.num 1), .exact (.num 2), .exact (.num 3)]) .encode
        = encErr .invalidArgument := by decide +kernel

/-- V-ENC-7 and V-ENC-32. -/
theorem test_encode_save : after (.encode (some 0x53#8) []) .encode = sends [0xAA#8, 0x55#8, 0x08#8, 0x76#8, 0x6F#8] ∧
    after (.encode (some 0x73#8) [.exact (.num 1)]) .encode = encErr .invalidArgument := by decide +kernel

/-- V-ENC-34 and V-ENC-35. -/
theorem test_encode_unknown :
    after (.encode (some 0x78#8) [.exact (.num 1), .exact (.num 2), .exact (.num 3)]) .encode = encErr .unknownCommand ∧
      after (.encode none []) .encode = encErr .unknownCommand := by decide +kernel

/-- V-ENC-18 under both tie rules. -/
theorem test_encode_ties :
    (encodeLine .halfEven (some 0x77#8) [.num (1 / 4), .num (3 / 4)]).toOption
      = some [0xAA#8, 0x55#8, 0x02#8, 0x00#8, 0x02#8, 0xD5#8, 0x0D#8] ∧
    (encodeLine .halfAway (some 0x77#8) [.num (1 / 4), .num (3 / 4)]).toOption
      = some [0xAA#8, 0x55#8, 0x02#8, 0x01#8, 0x02#8, 0x45#8, 0x0C#8] := by decide +kernel

/-- The REQ rows: V-L1-1, V-ENC-14 and V-ENC-6. -/
theorem test_request_rows :
    responseAlone .reqRead = sends [0xAA#8, 0x55#8, 0x01#8, 0x70#8, 0xAF#8] ∧
      responseAlone (.reqWrite 63#6 0#6) = sends [0xAA#8, 0x55#8, 0x02#8, 0x3F#8, 0x00#8, 0xE4#8, 0x9D#8] ∧
      responseAlone .reqSave = sends [0xAA#8, 0x55#8, 0x08#8, 0x76#8, 0x6F#8] := by decide +kernel

/-! ### DECODE (95 §2.5) -/

/-- V-DEC-9: the Write acknowledgement with its record. -/
theorem test_decode_write_ack : after (.decode goodAck) .decode = some (.decode ⟨.ok,
    some ⟨0xAA55#16, 0x02#8, .write, 2#6, 5#6, 1, 5 / 2, 0x774D#16⟩⟩) := by decide +kernel

/-- V-DEC-12 and V-DEC-14: the bounds, as Read and as Save. -/
theorem test_decode_read_and_save_acks :
    after (.decode [0xAA#8, 0x55#8, 0x01#8, 0x00#8, 0x00#8, 0x14#8, 0x7C#8]) .decode = some (.decode ⟨.ok,
      some ⟨0xAA55#16, 0x01#8, .read, 0#6, 0#6, 0, 0, 0x147C#16⟩⟩) ∧
    after (.decode [0xAA#8, 0x55#8, 0x08#8, 0x3F#8, 0x3F#8, 0xF6#8, 0xFD#8]) .decode = some (.decode ⟨.ok,
      some ⟨0xAA55#16, 0x08#8, .save, 63#6, 63#6, 63 / 2, 63 / 2, 0xF6FD#16⟩⟩) := by decide +kernel

/-- V-DEC-4, V-DEC-24, V-DEC-28, V-DEC-6 and V-DEC-29: the length classes and the order of the checks. -/
theorem test_decode_lengths :
    after (.decode [0xAA#8, 0x55#8, 0x01#8]) .decode = decErr .incomplete ∧
      after (.decode [0x00#8, 0x00#8, 0x00#8, 0x00#8]) .decode = decErr .badMagic ∧
      after (.decode [0xAA#8, 0x55#8, 0x03#8, 0x00#8]) .decode = decErr .unknownCode ∧
      after (.decode [0xAA#8, 0x55#8, 0x01#8, 0x70#8, 0xAF#8]) .decode = decErr .malformedFrame ∧
      after (.decode (goodAck ++ [0x00#8])) .decode = decErr .malformedFrame := by decide +kernel

/-- V-DEC-16, V-DEC-21, V-DEC-20 and V-DEC-22: range after CRC, CRC after code, magic first. -/
theorem test_decode_order :
    after (.decode [0xAA#8, 0x55#8, 0x02#8, 0x40#8, 0x00#8, 0xD4#8, 0xBD#8]) .decode = decErr .malformedFrame ∧
      after (.decode [0xAA#8, 0x55#8, 0x02#8, 0x40#8, 0x00#8, 0xD4#8, 0xBC#8]) .decode = decErr .checksumMismatch ∧
      after (.decode [0xAA#8, 0x55#8, 0x01#8, 0x02#8, 0x05#8, 0x77#8, 0x4D#8]) .decode = decErr .checksumMismatch ∧
      after (.decode [0x55#8, 0xAA#8, 0x02#8, 0x02#8, 0x05#8, 0x77#8, 0x69#8]) .decode = decErr .badMagic := by
  decide +kernel

/-- OP_DECODE on the multiplexed port: V-DEC-3. -/
theorem test_op_decode : responseAlone (.opDecode [0x00#8, 0x01#8]) = decErr .incomplete := by decide +kernel

/-- OP_ENCODE on the multiplexed port: V-ENC-12. -/
theorem test_op_encode : responseAlone (.opEncode (some 0x77#8) [.num (63 / 2), .num (63 / 2)])
    = sends [0xAA#8, 0x55#8, 0x02#8, 0x3F#8, 0x3F#8, 0xF4#8, 0xDD#8] := by decide +kernel

/-! ### Refusals (R215) -/

theorem test_reserved_op : refuses (.mux 0b101#3 Lanes.zero) (.reservedOp 0b101#3) = true := by decide +kernel

theorem test_inexact_operand :
    refuses (.encode (some 0x77#8) [.inexact (1 / 3), .exact (.num 1)]) .operandNotExpressible = true := by
  decide +kernel

/-! ### Witnesses: for each obligation with hypotheses, values that meet them together -/

theorem witness_StepRunsTheDecodedRequest : ∃ (s : State) (r : Request) (rest : List Request) (i : Instr),
    s.pending = r :: rest ∧ decode r = .ok i :=
  ⟨State.reset.accept (.c2d 5#6), .c2d 5#6, [], .opC2d 5#6, rfl, rfl⟩

theorem witness_IdleStepChangesNothing : State.reset.pending = [] := rfl

theorem witness_AcceptedRequestIsAnsweredInTurn : ∃ (s : State) (r q : Request) (rest : List Request) (i j : Instr),
    decode r = .ok i ∧ s.pending = q :: rest ∧ decode q = .ok j ∧ State.reset.pending = [] :=
  ⟨State.reset.accept (.c2d 5#6), .decode [], .c2d 5#6, [], .opDecode [], .opC2d 5#6, rfl, rfl, rfl, rfl⟩

theorem witness_OperationSelectField : ∃ (l : Lanes) (vs : List Operand) (v : Operand) (s : State),
    l.args = vs.map RawOperand.exact ∧ l.v = .exact v ∧ s.pending = .mux 0b111#3 l :: [] :=
  ⟨Lanes.zero, [], .num 0, State.reset.accept (.mux 0b111#3 Lanes.zero), rfl, rfl, rfl⟩

theorem witness_UnusableRequestsAreRefused_op : ∃ (op : OpSel) (l : Lanes) (s : State),
    4 < op.toNat ∧ s.pending = .mux op l :: [] :=
  ⟨0b101#3, Lanes.zero, State.reset.accept (.mux 0b101#3 Lanes.zero), by decide, rfl⟩

theorem witness_UnusableRequestsAreRefused_encode : ∃ (q : Db) (args : List RawOperand) (s : State),
    RawOperand.inexact q ∈ args ∧ s.pending = .encode none args :: [] :=
  ⟨0, [.inexact 0], State.reset.accept (.encode none [.inexact 0]), by simp, rfl⟩

theorem witness_UnusableRequestsAreRefused_mux : ∃ (q : Db) (l : Lanes) (s s' : State),
    RawOperand.inexact q ∈ l.args ∧ l.v = .inexact q ∧ s.pending = .mux 0b001#3 l :: [] ∧
      s'.pending = .mux 0b011#3 l :: [] :=
  ⟨0, { Lanes.zero with args := [.inexact 0], v := .inexact 0 },
    State.reset.accept (.mux 0b001#3 { Lanes.zero with args := [.inexact 0], v := .inexact 0 }),
    State.reset.accept (.mux 0b011#3 { Lanes.zero with args := [.inexact 0], v := .inexact 0 }),
    by simp, rfl, rfl, rfl⟩

theorem witness_UnusableRequestsAreRefused_d2c :
    (State.reset.accept (.d2c (.inexact 0))).pending = .d2c (.inexact 0) :: [] := rfl

theorem witness_CodeTableEntries : (0x03#8 : Byte) ≠ 0x01#8 ∧ (0x03#8 : Byte) ≠ 0x02#8 ∧ (0x03#8 : Byte) ≠ 0x08#8 := by
  decide

theorem witness_DecodeEncodeAgree : (Instr.cmdW 0x57#8 [.num 1, .notNum]).wellFormed = true := by decide

theorem witness_DecodedInstructionsAreWellFormed :
    decode (.encode (some 0x73#8) []) = .ok (.cmdS 0x73#8 []) := by decide

theorem witness_EveryStepKeepsPortsValid : ∃ s t : State, s.portsValid = true ∧ step s = .next t :=
  ⟨State.reset.accept (.c2d 5#6), _, by decide, rfl⟩

theorem witness_Crc16FoldsTheByteStep : (1 : Nat) ≤ [0x00#8].length ∧ (0 : Nat) ≤ ([] : List Byte).length := by decide

theorem witness_CrcContractBreachFaultsTheRun : ∃ (buf : List Byte) (n : Nat) (s : State) (r : Request),
    s.pending = r :: [] ∧ decode r = .ok (.opCrc16 buf n) ∧ buf.length < n :=
  ⟨[], 1, State.reset.accept (.crc16 [] 1), .crc16 [] 1, rfl, rfl, by decide⟩

theorem witness_CrcContractBreach_others (buf : List Byte) (n : Nat) : Instr.reqRead ≠ .opCrc16 buf n := by simp

theorem witness_CrcOfXorIsXorOfCrcs : [0x01#8].length = [0x02#8].length := rfl

theorem witness_ReadRequest : (Instr.cmdR 0x52#8 []).wellFormed = true ∧ ([Operand.notNum] ≠ []) := by decide

theorem witness_SaveRequest : (Instr.cmdS 0x53#8 []).wellFormed = true ∧ ([Operand.notNum] ≠ []) := by decide

theorem witness_WriteRequest_ok : ∃ (args : List Operand) (qa qb : Rat),
    (Instr.cmdW 0x57#8 args).wellFormed = true ∧ args = [.num qa, .num qb] ∧
      0 ≤ qa ∧ qa ≤ 63 / 2 ∧ 0 ≤ qb ∧ qb ≤ 63 / 2 :=
  ⟨[.num 0, .num (63 / 2)], 0, 63 / 2, by decide, rfl, by norm_num, by norm_num, by norm_num, by norm_num⟩

theorem witness_WriteRequest_error :
    ¬ ∃ a b, [Operand.num 1] = [a, b] ∧ inRange a = true ∧ inRange b = true := by simp

theorem witness_RequestFrameLayouts : (Instr.reqSave, (0x08#8 : Byte)) = (.reqRead, 0x01#8) ∨
    (Instr.reqSave, (0x08#8 : Byte)) = (.reqSave, 0x08#8) := .inr rfl

theorem witness_UnknownCommandLine :
    (∀ b ∈ some (0x78#8 : Byte), b &&& 0xDF#8 ∉ [0x52#8, 0x57#8, 0x53#8]) ∧
      ∀ b ∈ (none : Option Byte), b &&& 0xDF#8 ∉ [0x52#8, 0x57#8, 0x53#8] := by simp

theorem witness_EncodeReportsTheFirstFailure :
    (0x78#8 : Byte) &&& 0xDF#8 ∉ [0x52#8, 0x57#8, 0x53#8] ∧
      (0x72#8 : Byte) &&& 0xDF#8 ∈ [0x52#8, 0x53#8] ∧ (0x57#8 : Byte) &&& 0xDF#8 = 0x57#8 ∧
      (∃ v ∈ [Operand.notNum, .num 0], inRange v = false) ∧
      ∀ v ∈ [Operand.num 0, .num (63 / 2)], inRange v = true := by decide +kernel

theorem witness_EncodeAllOrNothing : ∃ i : Instr,
    (∃ b args, i = .cmdR b args ∨ i = .cmdW b args ∨ i = .cmdS b args) ∨ ∃ cmd args, i = .opEncode cmd args :=
  ⟨.opEncode none [], .inr ⟨none, [], rfl⟩⟩

theorem witness_CommandRowsRefineEncode : (Instr.cmdR 0x72#8 []).wellFormed = true ∧
    (Instr.cmdW 0x57#8 []).wellFormed = true ∧ (Instr.cmdS 0x73#8 []).wellFormed = true := by decide

theorem witness_OperandsPastTheSecondAreNotRead :
    [Operand.num 1, .num 2, .num 3].length = [Operand.num 1, .num 2, .notNum].length ∧
      [Operand.num 1, .num 2, .num 3].take 2 = [Operand.num 1, .num 2, .notNum].take 2 := ⟨rfl, rfl⟩

theorem witness_RoundTDefinition :
    ((2 / 5 : Rat) - (2 / 5 : Rat).floor < 1 / 2) ∧ (1 / 2 < (3 / 5 : Rat) - (3 / 5 : Rat).floor) ∧
      ((125 / 2 : Rat) - (125 / 2 : Rat).floor = 1 / 2) ∧ (0 ≤ (125 / 2 : Rat) ∧ (125 / 2 : Rat) ≤ 63) := by
  decide +kernel

theorem witness_D2cResult : (0 : Rat) ≤ 63 / 2 ∧ (63 / 2 : Rat) ≤ 63 / 2 ∧ inRange (.num (-1 / 10)) = false ∧
    inRange .notNum = false := by decide +kernel

theorem witness_D2cIsMonotone : (0 : Rat) ≤ 1 / 4 ∧ (1 / 4 : Rat) ≤ 1 / 3 ∧ (1 / 3 : Rat) ≤ 63 / 2 := by decide +kernel

theorem witness_DbRoundTrip : (63 : Nat) ≤ 63 := le_refl 63

/-- A chunk for each clause of the pipeline, at the lengths where the clauses meet. -/
theorem witness_DecodePipeline :
    [0xAA#8, 0x55#8, 0x01#8].length < 4 ∧ 4 ≤ [0xAA#8, 0x54#8, 0x01#8, 0x00#8].length ∧
      ¬ ([0xAA#8, 0x54#8, 0x01#8, 0x00#8][0]? = some 0xAA#8 ∧ [0xAA#8, 0x54#8, 0x01#8, 0x00#8][1]? = some 0x55#8) ∧
      (0x00#8 : Byte) ∉ [0x01#8, 0x02#8, 0x08#8] ∧ (0x08#8 : Byte) ∈ [0x01#8, 0x02#8, 0x08#8] ∧
      crc16 [0xAA#8, 0x55#8, 0x02#8, 0x3F#8, 0x3F#8, 0xF4#8, 0xDD#8] 5 = joinBytes 0xF4#8 0xDD#8 ∧
      crc16 [0xAA#8, 0x55#8, 0x02#8, 0x40#8, 0x00#8, 0xD4#8, 0xBD#8] 5 = joinBytes 0xD4#8 0xBD#8 ∧
      crc16 [0xAA#8, 0x55#8, 0x02#8, 0x40#8, 0x00#8, 0xD4#8, 0xBC#8] 5 ≠ joinBytes 0xD4#8 0xBC#8 := by
  decide +kernel

theorem witness_ShortChunks : [0xAA#8, 0x55#8, 0x01#8].length < 4 ∧ 4 ≤ [0xAA#8, 0x55#8, 0x01#8, 0x02#8].length ∧
    [0xAA#8, 0x55#8, 0x02#8, 0x02#8, 0x05#8, 0x77#8].length < 7 := by decide

theorem witness_AcknowledgementRows : ∃ (row : List Byte → Instr) (code : Byte) (kind : Kind),
    (row, code, kind) = (Instr.ackRead, 0x01#8, .read) ∨ (row, code, kind) = (Instr.ackWrite, 0x02#8, .write) ∨
      (row, code, kind) = (Instr.ackSave, 0x08#8, .save) :=
  ⟨Instr.ackWrite, 0x02#8, .write, .inr (.inl rfl)⟩

/-- An accepted frame: the premise of `OneChangedByteIsCaught` and of `SplitFrames`. -/
theorem witness_accepted_frame : ∃ (s t : State) (ack : Ack),
    exec (.opDecode goodAck) s = .next t ∧ t.decodePort = some ⟨.ok, some ack⟩ :=
  ⟨State.reset, _, ⟨0xAA55#16, 0x02#8, .write, 2#6, 5#6, 1, 5 / 2, 0x774D#16⟩, rfl, by decide +kernel⟩

theorem witness_OneChangedByteIsCaught : goodAck[6]? ≠ some 0x4C#8 ∧ goodAck[1]? ≠ some 0x54#8 ∧
    goodAck[2]? ≠ some 0x01#8 ∧ goodAck[2]? ≠ some 0x03#8 ∧ (0x03#8 : Byte) ∉ [0x01#8, 0x02#8, 0x08#8] ∧
    crc16 [0xAA#8, 0x55#8, 0x01#8, 0x02#8, 0x05#8, 0x77#8, 0x4D#8] 5 ≠ joinBytes 0x77#8 0x4D#8 := by decide +kernel

theorem witness_SplitFrames : ¬ ((goodAck.drop 3)[0]? = some 0xAA#8 ∧ (goodAck.drop 3)[1]? = some 0x55#8) := by decide

theorem witness_RequestFramesFedToDecode : ∃ (s t : State) (tx : List Byte),
    exec .reqRead s = .next t ∧ t.encodePort = some ⟨.ok, tx⟩ :=
  ⟨State.reset, _, _, rfl, rfl⟩

theorem witness_RequestFramesFedToDecode_write : ∃ (s t : State) (tx : List Byte),
    exec (.reqWrite 2#6 5#6) s = .next t ∧ t.encodePort = some ⟨.ok, tx⟩ :=
  ⟨State.reset, _, _, rfl, rfl⟩

theorem witness_EchoedWriteIsWithinAQuarterDb : (0 : Rat) ≤ 1 / 4 ∧ (1 / 4 : Rat) ≤ 63 / 2 ∧ (0 : Rat) ≤ 63 / 2 ∧
    (63 / 2 : Rat) ≤ 63 / 2 := by decide +kernel

theorem witness_DecodeReadsClassAndSevenBytes :
    lengthClass (goodAck ++ [0x00#8]).length = lengthClass (goodAck ++ [0x01#8, 0x02#8, 0x03#8]).length ∧
      (goodAck ++ [0x00#8]).take 7 = (goodAck ++ [0x01#8, 0x02#8, 0x03#8]).take 7 := by decide

theorem witness_EncodeRowsFrame : ∃ s t : State, exec (.cmdW 0x77#8 [.notNum]) s = .next t :=
  ⟨State.reset, _, rfl⟩

theorem witness_DecodeRowsFrame : ∃ s t : State, exec (.ackSave [0x00#8]) s = .next t := ⟨State.reset, _, rfl⟩

theorem witness_ChecksumAndConversionFrame : (∃ t, exec (.opCrc16 [0x00#8] 1) State.reset = .next t) ∧
    (∃ t, exec (.opD2c (.num 1)) State.reset = .next t) ∧ ∃ t, exec (.opC2d 63#6) State.reset = .next t :=
  ⟨⟨_, rfl⟩, ⟨_, rfl⟩, ⟨_, rfl⟩⟩

theorem witness_ChannelsAreIsolated : ∃ s t : State, exec (.opC2d 1#6) s = .next t ∧
    Channel.decode ≠ channelOf (.opC2d 1#6) :=
  ⟨State.reset, _, rfl, by decide⟩

theorem witness_SameRequestSameResponse : (∃ t, exec (.opCrc16 [] 0) State.reset = .next t) ∧
    ∃ f, exec (.opCrc16 [] 1) State.reset = .fault f :=
  ⟨⟨_, rfl⟩, ⟨_, rfl⟩⟩

theorem witness_OrderOfRequestsIsUnobservable : ∃ (s t : State) (r r' : Request) (i i' : Instr),
    decode r = .ok i ∧ decode r' = .ok i' ∧ channelOf i ≠ channelOf i' ∧
      Host.Core.run core 2 { s with pending := r :: r' :: [] } = .next t :=
  ⟨State.reset, _, .c2d 1#6, .d2c (.exact .notNum), .opC2d 1#6, .opD2c .notNum, rfl, rfl, by decide, rfl⟩

theorem witness_EveryRequestIsAnsweredAsAlone : ∃ s : State,
    (1 ≤ s.pending.length ∧ ∀ r ∈ s.pending.take 1, answered r = true) ∧
      s.pending.length = 2 ∧ ∀ r ∈ s.pending.take 2, answered r = true :=
  ⟨(State.reset.accept (.crc16 [0x00#8] 1)).accept (.encode none []), by decide, by decide, by decide⟩

theorem witness_AbandonedRequestKeepsTheRunOpen : ∃ s t : State, s.pending ≠ [] ∧
    Host.Core.run core 1 ([.c2d 5#6].foldl State.accept s.afterReset) = .next t :=
  ⟨State.reset.accept (.c2d 5#6), _, by decide, rfl⟩

/-- R242: a run is over at reset and after an answer, not while a request is pending, and not after a reset
abandoned one. -/
theorem test_final : State.reset.final = true ∧ (State.reset.accept (.c2d 5#6)).final = false ∧
    (State.reset.accept (.c2d 5#6)).afterReset.final = false ∧ State.reset.afterReset.final = true := by decide

end Sys2Proof.Tests
end

section
/-! The entries of the code table: which bytes it answers, and what it answers for each. -/

namespace Sys2Proof.Machine

/-- R69 (a): a byte that is none of the three codes has no entry. -/
theorem lookupCode_eq_none {c : Byte} (h1 : c ≠ 0x01#8) (h2 : c ≠ 0x02#8) (h8 : c ≠ 0x08#8) :
    lookupCode c = none := by
  rcases lookupCode_cases c with ⟨hc, _⟩ | ⟨hc, _⟩ | ⟨hc, _⟩ | ⟨_, _, _, hnone⟩
  · exact absurd hc h1
  · exact absurd hc h2
  · exact absurd hc h8
  · exact hnone

/-- Settles O8: the three codes are looked up in the table, and no other byte is found there. -/
theorem codeTableEntries : Obligations.CodeTableEntries := by
  unfold Obligations.CodeTableEntries
  have hread : lookupCode 0x01#8 = some ⟨0x01#8, .read, 5, 7, expectedArgs .read⟩ := rfl
  have hwrite : lookupCode 0x02#8 = some ⟨0x02#8, .write, 7, 7, expectedArgs .write⟩ := rfl
  have hsave : lookupCode 0x08#8 = some ⟨0x08#8, .save, 5, 7, expectedArgs .save⟩ := rfl
  exact ⟨hread, hwrite, hsave, rfl, rfl, rfl, fun _ h1 h2 h8 => lookupCode_eq_none h1 h2 h8⟩

end Sys2Proof.Machine
end

section
/-! The Checksum Engine: the rounds of a byte step, and what OP_CRC16 answers. -/

namespace Sys2Proof.Machine

theorem crcRounds_eq_iterate (k : Nat) (acc : U16) : crcRounds k acc = crcRound^[k] acc := by
  induction k generalizing acc with
  | zero => rfl
  | succ k ih => rw [crcRounds, ih, Function.iterate_succ_apply]

/-- R102 on the zero-extended byte. -/
theorem crcByte_eq_iterate (acc : U16) (b : Byte) :
    crcByte acc b = crcRound^[8] (acc ^^^ BitVec.ofNat 16 b.toNat) := by
  rw [crcByte, crcRounds_eq_iterate, BitVec.ofNat_toNat]

theorem crcRound_of_odd {acc : U16} (h : acc.toNat % 2 = 1) : crcRound acc = (acc >>> 1) ^^^ crcPoly := by
  have hbit : acc.getLsbD 0 = true := by simp [BitVec.getLsbD, h]
  rw [crcRound, if_pos hbit]

theorem crcRound_of_even {acc : U16} (h : ¬ acc.toNat % 2 = 1) : crcRound acc = acc >>> 1 := by
  have hbit : ¬ acc.getLsbD 0 = true := by simpa [BitVec.getLsbD] using h
  rw [crcRound, if_neg hbit]

/-- R103 in numbers: halve, and XOR the polynomial when the number was odd. -/
theorem crcRound_toNat (acc : U16) : (crcRound acc).toNat =
    if acc.toNat % 2 = 1 then (acc.toNat / 2) ^^^ 0xA001 else acc.toNat / 2 := by
  have hshift : (acc >>> 1).toNat = acc.toNat / 2 := by
    rw [BitVec.toNat_ushiftRight, Nat.shiftRight_one]
  split
  next hodd =>
    have hpoly : crcPoly.toNat = 0xA001 := rfl
    rw [crcRound_of_odd hodd, BitVec.toNat_xor, hshift, hpoly]
  next heven => rw [crcRound_of_even heven, hshift]

/-- Settles O16: the model's eight rounds are the iterate of the round, and the round is read in numbers. -/
theorem crcByteStep : Obligations.CrcByteStep := by
  unfold Obligations.CrcByteStep
  exact ⟨crcByte_eq_iterate, crcRound_toNat⟩

/-- OP_CRC16 with its contract kept (R100): the response is delivered in every state. -/
theorem exec_opCrc16_of_le {buf : List Byte} {n : Nat} (h : n ≤ buf.length) (s : State) :
    exec (.opCrc16 buf n) s = .next (deliverCrc16 (crc16 buf n) s) := by
  rw [exec_opCrc16, if_pos h]

/-- Settles O17: the value delivered is the fold from 0xFFFF, whatever the accumulator held before. -/
theorem crc16FoldsTheByteStep : Obligations.Crc16FoldsTheByteStep := by
  unfold Obligations.Crc16FoldsTheByteStep
  intro buf n s hn
  have hfold : crc16 buf n = (buf.take n).foldl crcByte 0xFFFF#16 := rfl
  exact ⟨_, exec_opCrc16_of_le hn s, by rw [deliverCrc16_crc16Port, hfold]⟩

end Sys2Proof.Machine
end

section
/-! The field mapper: which operands it maps, and the code it maps them to. -/

namespace Sys2Proof.Machine

/-- Rounding does not leave an interval with integer ends, whatever the tie rule: the lower end. -/
theorem le_roundT (tie : TieRule) {n : Int} {t : Rat} (h : (n : Rat) ≤ t) : n ≤ roundT tie t := by
  have hfloor : n ≤ t.floor := Rat.le_floor_iff.mpr h
  rcases roundT_eq_floor_or tie t with e | e <;> omega

/-- The upper end: only an exact `n` has `n` as its floor, and no tie rule moves it. -/
theorem roundT_le (tie : TieRule) {n : Int} {t : Rat} (h : t ≤ n) : roundT tie t ≤ n := by
  have hfloor : t.floor ≤ n := by exact_mod_cast (Rat.floor_le t).trans h
  rcases hfloor.eq_or_lt with rfl | hlt
  · exact (roundT_below_half (by linarith)).le
  · rcases roundT_eq_floor_or tie t with e | e <;> omega

theorem inRange_iff {v : Operand} : inRange v = true ↔ ∃ q, v = .num q ∧ 0 ≤ q ∧ q ≤ 63 / 2 := by
  cases v with
  | notNum => simp [inRange]
  | num q => simp [inRange]

/-- The rounded code of a number in range is in 0..63, so no bit of it is lost (R121, R122). -/
theorem ofInt_roundT_toNat (tie : TieRule) {q : Rat} (h0 : 0 ≤ q) (h1 : q ≤ 63 / 2) :
    ((BitVec.ofInt 6 (roundT tie (2 * q))).toNat : Int) = roundT tie (2 * q) := by
  have hlow : 0 ≤ roundT tie (2 * q) := le_roundT tie (by push_cast; linarith)
  have hhigh : roundT tie (2 * q) ≤ 63 := roundT_le tie (by push_cast; linarith)
  rw [BitVec.toNat_ofInt]
  omega

theorem dbToCode_of_inRange (tie : TieRule) {v : Operand} (h : inRange v = true) :
    ∃ c, dbToCode tie v = .ok c := by
  obtain ⟨q, rfl, h0, h1⟩ := inRange_iff.mp h
  exact ⟨_, dbToCode_in_range h0 h1⟩

/-- The field mapper takes no operand out of range (R122). -/
theorem inRange_of_dbToCode {tie : TieRule} {v : Operand} {c : Code} (h : dbToCode tie v = .ok c) :
    inRange v = true := by
  cases v with
  | notNum => cases h
  | num q =>
    by_cases hq : q < 0 ∨ 63 / 2 < q
    · rw [dbToCode_out_of_range hq] at h
      cases h
    · rw [not_or, not_lt, not_lt] at hq
      exact inRange_iff.mpr ⟨q, rfl, hq⟩

end Sys2Proof.Machine
end

section
/-! The ENCODE pipeline: what each kind answers, which leading bytes select it, and that every frame it
builds is a request frame. -/

namespace Sys2Proof.Machine

/-- A Write line with operands in range is answered with a frame (R133). -/
theorem encodeWrite_of_inRange (tie : TieRule) {a b : Operand} (ha : inRange a = true)
    (hb : inRange b = true) :
    ∃ ca cb, encodeWrite tie [a, b] = .ok (serialize (requestPayload .write ca cb)) := by
  obtain ⟨ca, hca⟩ := dbToCode_of_inRange tie ha
  obtain ⟨cb, hcb⟩ := dbToCode_of_inRange tie hb
  exact ⟨ca, cb, encodeWrite_ok hca hcb⟩

/-- Any other Write line is refused, whichever of its stages fails (R126, R127, R133). -/
theorem encodeWrite_refused (tie : TieRule) {args : List Operand}
    (h : ¬ ∃ a b, args = [a, b] ∧ inRange a = true ∧ inRange b = true) :
    encodeWrite tie args = .error .invalidArgument := by
  rcases encodeWrite_cases tie args with ⟨a, b, ca, cb, hargs, ha, hb, _⟩ | he
  · exact absurd ⟨a, b, hargs, inRange_of_dbToCode ha, inRange_of_dbToCode hb⟩ h
  · exact he

/-- R126: a wrong count is InvalidArgument for every kind. -/
theorem encodeKind_bad_count (tie : TieRule) {k : Kind} {args : List Operand}
    (h : args.length ≠ expectedArgs k) : encodeKind tie k args = .error .invalidArgument := by
  cases k with
  | read => simp [encodeKind, encodeRead, countOk, h]
  | write => exact encodeWrite_bad_count h
  | save => simp [encodeKind, encodeSave, countOk, h]

/-- A kind that expects no arguments is answered with a frame when it has none (R126). -/
theorem encodeKind_nil (tie : TieRule) {k : Kind} (h : expectedArgs k = 0) :
    encodeKind tie k [] = .ok (serialize (requestPayload k 0#6 0#6)) := by
  cases k with
  | read => rfl
  | write => simp [expectedArgs] at h
  | save => rfl

theorem tokenMatches_iff {m b : Byte} : tokenMatches m b = true ↔ b &&& 0xDF#8 = m := beq_iff_eq

theorem discriminate_none {b : Byte} (h : b &&& 0xDF#8 ∉ [0x52#8, 0x57#8, 0x53#8]) :
    discriminate b = none := by
  simp only [List.mem_cons, List.not_mem_nil, or_false, not_or, ← tokenMatches_iff] at h
  obtain ⟨hread, hwrite, hsave⟩ := h
  simp [discriminate, hread, hwrite, hsave]

/-- The bytes that select Read or Save select a kind without arguments (R123, R124). -/
theorem discriminate_without_args {b : Byte} (h : b &&& 0xDF#8 ∈ [0x52#8, 0x53#8]) :
    ∃ k, discriminate b = some k ∧ expectedArgs k = 0 := by
  rcases List.mem_pair.mp h with h | h
  · exact ⟨.read, discriminate_read (tokenMatches_iff.mpr h), rfl⟩
  · exact ⟨.save, discriminate_save (tokenMatches_iff.mpr h), rfl⟩

/-- An instruction on the ENCODE channel completes in every state, and the port shows its result. -/
theorem exec_encode_port {i : Instr} (h : channelOf i = .encode) (s : State) :
    ∃ t, exec i s = .next t ∧ t.encodePort = some (encResponse (encodeResult i)) :=
  ⟨_, exec_encode h s, rfl⟩

/-- The CRC field the serializer fills holds the CRC of the bytes before it (R130). -/
theorem memRead16_serialize (P : List Byte) :
    memRead16 (serialize P) P.length = crc16 (serialize P) P.length := by
  rw [serialize_eq, crc16_append]
  simp [memRead16, memRead8]

/-- A header of the table followed by as many ATT bytes 0..63 as its code asks for becomes, with its CRC,
a complete request frame (R62). -/
theorem isRequestFrame_serialize {code : Byte} {e : CodeEntry} {att : List Byte}
    (hcode : lookupCode code = some e) (hlen : att.length + 5 = e.reqLen)
    (hatt : ∀ b ∈ att, b.toNat ≤ 63) :
    isRequestFrame (serialize (frameHeader code ++ att)) = true := by
  generalize hP : frameHeader code ++ att = P
  have hF : serialize P = [0xAA#8, 0x55#8, code] ++ (att ++ (serialize P).drop P.length) := by
    rw [← List.append_assoc, ← frameHeader_eq, hP, serialize_eq]
    simp
  have hpay : e.reqLen - 2 = P.length := by simp [← hP, ← hlen]
  have hfull : (serialize P).length = e.reqLen := by simp [← hP, ← hlen]
  have hmagic : memRead16 (serialize P) 0 = magic := by
    rw [hF]
    exact joinBytes_eq_magic.mpr ⟨rfl, rfl⟩
  have hcode2 : memRead8 (serialize P) 2 = code := by rw [hF]; rfl
  have hbody : ((serialize P).take P.length).drop 3 = att := by rw [serialize_take, ← hP]; simp
  have hall : att.all (fun b => decide (b.toNat ≤ 63)) = true := by simpa using hatt
  simp only [isRequestFrame, hcode2, hcode, hfull, hpay, hmagic, hbody, hall, memRead16_serialize,
    beq_self_eq_true, Bool.and_self]

/-- The header and payload of every request kind become a complete request frame (R62). -/
theorem isRequestFrame_request (k : Kind) (a b : Code) :
    isRequestFrame (serialize (requestPayload k a b)) = true := by
  cases k with
  | read => exact isRequestFrame_serialize (code := 0x01#8) (att := []) rfl rfl (by simp)
  | write =>
    refine isRequestFrame_serialize (code := 0x02#8) (att := [a.setWidth 8, b.setWidth 8]) rfl rfl ?_
    have ha := a.isLt
    have hb := b.isLt
    simp only [List.mem_pair, forall_eq_or_imp, forall_eq, BitVec.toNat_setWidth]
    omega
  | save => exact isRequestFrame_serialize (code := 0x08#8) (att := []) rfl rfl (by simp)

/-- Everything ENCODE can answer: the frame of a kind, or an error (R120). -/
theorem encodeLine_cases (tie : TieRule) (cmd : Option Byte) (args : List Operand) :
    (∃ k a b, encodeLine tie cmd args = .ok (serialize (requestPayload k a b))) ∨
    ∃ e, encodeLine tie cmd args = .error e := by
  cases cmd with
  | none => exact .inr ⟨_, encodeLine_none tie args⟩
  | some b =>
    cases hk : discriminate b with
    | none => exact .inr ⟨_, encodeLine_unknown hk⟩
    | some k =>
      rw [encodeLine_known hk]
      rcases encodeKind_cases tie k args with ⟨ca, cb, h⟩ | h
      · exact .inl ⟨k, ca, cb, h⟩
      · exact .inr ⟨_, h⟩

/-- The same for every instruction on the ENCODE channel (R120, R132 to R134). -/
theorem encodeResult_cases {i : Instr} (h : channelOf i = .encode) :
    (∃ k a b, encodeResult i = .ok (serialize (requestPayload k a b))) ∨
    ∃ e, encodeResult i = .error e := by
  have hkind (k : Kind) (args : List Operand) :
      (∃ k' a b, encodeKind Config.tieRule k args = .ok (serialize (requestPayload k' a b))) ∨
      ∃ e, encodeKind Config.tieRule k args = .error e :=
    (encodeKind_cases Config.tieRule k args).imp (fun hok => ⟨k, hok⟩) (fun herr => ⟨_, herr⟩)
  cases i with
  | cmdR cmd args => exact hkind .read args
  | cmdW cmd args => exact hkind .write args
  | cmdS cmd args => exact hkind .save args
  | reqRead => exact .inl ⟨.read, 0#6, 0#6, rfl⟩
  | reqWrite a b => exact .inl ⟨.write, a, b, rfl⟩
  | reqSave => exact .inl ⟨.save, 0#6, 0#6, rfl⟩
  | opEncode cmd args => exact encodeLine_cases Config.tieRule cmd args
  | _ => cases h

/-- R131: whatever is on the ENCODE channel, its response is one the spec allows. -/
theorem encResponse_encodeResult_valid {i : Instr} (h : channelOf i = .encode) :
    (encResponse (encodeResult i)).valid = true := by
  rcases encodeResult_cases h with ⟨k, a, b, hok⟩ | ⟨e, herr⟩
  · rw [hok]
    exact isRequestFrame_request k a b
  · rw [herr]
    cases e <;> rfl

/-- A valid ENCODE response, read by its status (R131). -/
theorem encResp_valid_iff (r : EncResp) :
    r.valid = true ↔ (r.status ≠ .ok → r.tx = []) ∧ (r.status = .ok → isRequestFrame r.tx = true) := by
  obtain ⟨status, tx⟩ := r
  cases status <;> simp [EncResp.valid]

end Sys2Proof.Machine
end

section
/-! The statements about the ENCODE channel. -/

namespace Sys2Proof.Machine

/-- A line of a kind without arguments: its one frame when it is empty, and refused otherwise (R126). -/
theorem exec_line_without_args {i : Instr} {k : Kind} {args : List Operand} (hc : channelOf i = .encode)
    (hi : encodeResult i = encodeKind Config.tieRule k args) (hk : expectedArgs k = 0) (s : State) :
    ∃ t, exec i s = .next t ∧
      (args = [] → t.encodePort = some ⟨.ok, serialize (requestPayload k 0#6 0#6)⟩) ∧
      (args ≠ [] → t.encodePort = some ⟨.invalidArgument, []⟩) := by
  obtain ⟨t, hexec, hport⟩ := exec_encode_port hc s
  rw [hi] at hport
  refine ⟨t, hexec, ?_, ?_⟩
  · rintro rfl
    rw [hport, encodeKind_nil _ hk]
    rfl
  · intro hargs
    have hlen : args.length ≠ expectedArgs k := by simpa [hk] using hargs
    rw [hport, encodeKind_bad_count _ hlen]
    rfl

/-- Settles O22: Read expects no argument, and the CRC of its header is 0x70AF. -/
theorem readRequest : Obligations.ReadRequest := by
  unfold Obligations.ReadRequest
  intro cmd args s _
  have hframe : serialize (requestPayload .read 0#6 0#6) = [0xAA#8, 0x55#8, 0x01#8, 0x70#8, 0xAF#8] := by
    decide +kernel
  rw [← hframe]
  exact exec_line_without_args (i := .cmdR cmd args) (k := .read) rfl rfl rfl s

/-- Settles O23: Save expects no argument, and the CRC of its header is 0x766F. -/
theorem saveRequest : Obligations.SaveRequest := by
  unfold Obligations.SaveRequest
  intro cmd args s _
  have hframe : serialize (requestPayload .save 0#6 0#6) = [0xAA#8, 0x55#8, 0x08#8, 0x76#8, 0x6F#8] := by
    decide +kernel
  rw [← hframe]
  exact exec_line_without_args (i := .cmdS cmd args) (k := .save) rfl rfl rfl s

/-- Settles O24: the two mapped codes lose no bit of the rounded values, and every other line is refused. -/
theorem writeRequest : Obligations.WriteRequest := by
  unfold Obligations.WriteRequest
  intro cmd args s _
  obtain ⟨t, hexec, hport⟩ := exec_encode_port (i := .cmdW cmd args) rfl s
  refine ⟨t, hexec, ?_, ?_⟩
  · rintro qa qb rfl ha0 ha1 hb0 hb1
    have hwrite := encodeWrite_ok (dbToCode_in_range (tie := Config.tieRule) ha0 ha1) (dbToCode_in_range hb0 hb1)
    refine ⟨_, _, _, ofInt_roundT_toNat _ ha0 ha1, ofInt_roundT_toNat _ hb0 hb1, rfl, ?_⟩
    rw [hport, encodeResult, hwrite, serialize_eq, ← crc16_length]
    rfl
  · intro hbad
    rw [hport, encodeResult, encodeWrite_refused _ hbad]
    rfl

/-- Settles O27: the stages in order, each with the lemma on what ENCODE answers when it is the first to fail. -/
theorem encodeReportsTheFirstFailure : Obligations.EncodeReportsTheFirstFailure := by
  unfold Obligations.EncodeReportsTheFirstFailure
  intro b args s
  obtain ⟨t, hexec, hport⟩ := exec_encode_port (i := .opEncode (some b) args) rfl s
  refine ⟨t, _, hexec, hport, ?_, ?_, ?_⟩ <;> rw [encodeResult]
  · intro hb
    rw [encodeLine_unknown (discriminate_none hb)]
    rfl
  · intro hb
    obtain ⟨k, hk, hnone⟩ := discriminate_without_args hb
    rw [encodeLine_known hk]
    constructor
    · intro hlen
      rw [encodeKind_bad_count _ (hnone ▸ hlen)]
      rfl
    · intro hlen
      rw [List.length_eq_zero_iff.mp hlen, encodeKind_nil _ hnone]
      rfl
  · intro hb
    rw [encodeLine_known (discriminate_write (tokenMatches_iff.mpr hb))]
    refine ⟨?_, ?_, ?_⟩
    · intro hlen
      rw [encodeKind_bad_count _ hlen]
      rfl
    · rintro - ⟨v, hv, hout⟩
      rw [encodeKind, encodeWrite_refused]
      · rfl
      · rintro ⟨x, y, rfl, hx, hy⟩
        rcases List.mem_pair.mp hv with rfl | rfl
        · simp [hx] at hout
        · simp [hy] at hout
    · intro hlen hin
      obtain ⟨x, y, rfl⟩ := List.length_eq_two.mp hlen
      obtain ⟨cx, cy, hok⟩ := encodeWrite_of_inRange Config.tieRule (hin x (by simp)) (hin y (by simp))
      rw [encodeKind, hok]
      rfl

/-- Settles O28: the response of every instruction on the ENCODE channel is valid, read by its status. -/
theorem encodeAllOrNothing : Obligations.EncodeAllOrNothing := by
  unfold Obligations.EncodeAllOrNothing
  intro i s hi
  have hc : channelOf i = .encode := by
    rcases hi with ⟨_, _, rfl | rfl | rfl⟩ | ⟨_, _, rfl⟩ <;> rfl
  obtain ⟨t, hexec, hport⟩ := exec_encode_port hc s
  exact ⟨t, _, hexec, hport, (encResp_valid_iff _).mp (encResponse_encodeResult_valid hc)⟩

end Sys2Proof.Machine
end

section
/-! The DECODE pipeline: the checks after the length, and what is answered to a chunk whose header is
recognised, by what follows the header. -/

namespace Sys2Proof.Machine

/-- An instruction on the DECODE channel completes in every state, and the port shows its result. -/
theorem exec_decode_port {i : Instr} (h : channelOf i = .decode) (s : State) :
    ∃ t, exec i s = .next t ∧ t.decodePort = some (decResponse (parseAck (chunkOf i))) :=
  ⟨_, exec_decode h s, rfl⟩

/-- A read outside the bytes gives 0, so it is never taken for another value (R12). -/
theorem memRead8_eq_iff {F : List Byte} {off : Nat} {v : Byte} (hv : v ≠ 0#8) :
    memRead8 F off = v ↔ F[off]? = some v := by
  rw [memRead8, List.getD_eq_getElem?_getD]
  cases F[off]? with
  | none => simpa using hv.symm
  | some w => simp

/-- The MAGIC check on a chunk of any length (R162). -/
theorem memRead16_zero_eq_magic {rx : List Byte} :
    memRead16 rx 0 = magic ↔ rx[0]? = some 0xAA#8 ∧ rx[1]? = some 0x55#8 := by
  rw [memRead16, joinBytes_eq_magic, memRead8_eq_iff (by decide), memRead8_eq_iff (by decide)]

/-- A code of the table has an entry (R64). -/
theorem exists_lookupCode {c : Byte} (h : c ∈ [0x01#8, 0x02#8, 0x08#8]) : ∃ e, lookupCode c = some e := by
  rcases lookupCode_cases c with ⟨_, e⟩ | ⟨_, e⟩ | ⟨_, e⟩ | ⟨h1, h2, h8, _⟩
  · exact ⟨_, e⟩
  · exact ⟨_, e⟩
  · exact ⟨_, e⟩
  · simp [h1, h2, h8] at h

/-- An ATT byte of 0..63 loses no bit in its code (R65). -/
theorem toNat_setWidth_code {a : Byte} (h : a.toNat ≤ 63) : (a.setWidth 6 : Code).toNat = a.toNat := by
  rw [BitVec.toNat_setWidth, Nat.mod_eq_of_lt (by omega)]

theorem memRead16_frameHeader (code : Byte) (tail : List Byte) :
    memRead16 (frameHeader code ++ tail) 0 = magic :=
  memRead16_zero_eq_magic.mpr ⟨rfl, rfl⟩

theorem memRead8_frameHeader (code : Byte) (tail : List Byte) :
    memRead8 (frameHeader code ++ tail) 2 = code := rfl

theorem length_frameHeader_append (code : Byte) (tail : List Byte) :
    (frameHeader code ++ tail).length = tail.length + 3 := by simp

theorem four_le_length_frameHeader {code : Byte} {tail : List Byte} (h : tail ≠ []) :
    4 ≤ (frameHeader code ++ tail).length := by
  have hpos : 0 < tail.length := List.length_pos_iff.mpr h
  rw [length_frameHeader_append]
  omega

/-- R163: MAGIC, then a code that the table does not have. -/
theorem parseAck_header_unknown {code : Byte} {tail : List Byte} (hcode : lookupCode code = none)
    (htail : tail ≠ []) : parseAck (frameHeader code ++ tail) = .error .unknownCode :=
  parseAck_unknownCode (four_le_length_frameHeader htail) (memRead16_frameHeader code tail) hcode

section
variable {code : Byte} {e : CodeEntry} (hcode : lookupCode code = some e)
include hcode

theorem parseAck_header {tail : List Byte} (htail : tail ≠ []) :
    parseAck (frameHeader code ++ tail) = parseBody (frameHeader code ++ tail) e :=
  parseAck_body (four_le_length_frameHeader htail) (memRead16_frameHeader code tail) hcode

/-- R164: a recognised header, and not the four bytes of an acknowledgement after it. -/
theorem parseAck_header_bad_length {tail : List Byte} (htail : tail ≠ []) (hlen : tail.length ≠ 4) :
    parseAck (frameHeader code ++ tail) = .error .malformedFrame := by
  have hack : (frameHeader code ++ tail).length ≠ e.ackLen := by
    rw [lookupCode_ackLen hcode, length_frameHeader_append]
    omega
  rw [parseAck_header hcode htail, parseBody, if_pos hack]

/-- The checks of R165 and R166 on the seven bytes of an acknowledgement, and the record of R167. -/
theorem parseAck_frame (a b h l : Byte) :
    parseAck (frameHeader code ++ [a, b, h, l]) =
      if crc16 (frameHeader code ++ [a, b]) 5 ≠ joinBytes h l then .error .checksumMismatch
      else if 63 < a.toNat ∨ 63 < b.toNat then .error .malformedFrame
      else .ok ⟨magic, code, e.kind, a.setWidth 6, b.setWidth 6,
        codeToDb (a.setWidth 6), codeToDb (b.setWidth 6), joinBytes h l⟩ := by
  have hack : ¬ (frameHeader code ++ [a, b, h, l]).length ≠ e.ackLen := by
    simp [lookupCode_ackLen hcode]
  rw [parseAck_header hcode (List.cons_ne_nil _ _), parseBody, if_neg hack, ackRecord,
    memRead16_frameHeader]
  rfl

variable {a b h l : Byte}

theorem parseAck_frame_bad_crc (hcrc : crc16 (frameHeader code ++ [a, b]) 5 ≠ joinBytes h l) :
    parseAck (frameHeader code ++ [a, b, h, l]) = .error .checksumMismatch := by
  rw [parseAck_frame hcode, if_pos hcrc]

theorem parseAck_frame_bad_att (hcrc : crc16 (frameHeader code ++ [a, b]) 5 = joinBytes h l)
    (hatt : 63 < a.toNat ∨ 63 < b.toNat) :
    parseAck (frameHeader code ++ [a, b, h, l]) = .error .malformedFrame := by
  rw [parseAck_frame hcode, if_neg (not_not.mpr hcrc), if_pos hatt]

theorem parseAck_frame_ok (hcrc : crc16 (frameHeader code ++ [a, b]) 5 = joinBytes h l)
    (ha : a.toNat ≤ 63) (hb : b.toNat ≤ 63) :
    parseAck (frameHeader code ++ [a, b, h, l]) =
      .ok ⟨magic, code, e.kind, a.setWidth 6, b.setWidth 6,
        (a.toNat : Rat) / 2, (b.toNat : Rat) / 2, joinBytes h l⟩ := by
  rw [parseAck_frame hcode, if_neg (not_not.mpr hcrc), if_neg (by omega), codeToDb, codeToDb,
    toNat_setWidth_code ha, toNat_setWidth_code hb]

end

end Sys2Proof.Machine
end

section
/-! The statements about the DECODE pipeline and the ACK rows. -/

namespace Sys2Proof.Machine

/-- Settles O38: each check in order, with the lemma on what DECODE answers when it is the first to fail. -/
theorem decodePipeline : Obligations.DecodePipeline := by
  unfold Obligations.DecodePipeline
  intro rx s
  obtain ⟨t, hexec, hport⟩ := exec_decode_port (i := .opDecode rx) rfl s
  refine ⟨t, _, hexec, hport, ?_, ?_, ?_⟩ <;> rw [chunkOf]
  · intro hlen
    rw [parseAck_incomplete hlen]
    rfl
  · intro hlen hmagic
    rw [parseAck_badMagic hlen (mt memRead16_zero_eq_magic.mp hmagic)]
    rfl
  · intro code tail hrx htail
    obtain rfl : rx = frameHeader code ++ tail := hrx
    have hne : tail ≠ [] := List.ne_nil_of_length_pos htail
    refine ⟨?_, ?_, ?_⟩
    · intro hcode
      simp only [List.mem_cons, List.not_mem_nil, or_false, not_or] at hcode
      obtain ⟨h1, h2, h8⟩ := hcode
      rw [parseAck_header_unknown (lookupCode_eq_none h1 h2 h8) hne]
      rfl
    · intro hcode hlen
      obtain ⟨e, he⟩ := exists_lookupCode hcode
      have hlen4 : tail.length ≠ 4 := by simpa using hlen
      rw [parseAck_header_bad_length he hne hlen4]
      rfl
    · rintro a b h l hcode rfl
      obtain ⟨e, he⟩ := exists_lookupCode hcode
      refine ⟨?_, ?_, ?_⟩
      · intro hcrc
        rw [parseAck_frame_bad_crc he hcrc]
        rfl
      · intro hcrc hatt
        rw [parseAck_frame_bad_att he hcrc hatt]
        rfl
      · intro hcrc ha hb
        rw [parseAck_frame_ok he hcrc ha hb]
        exact ⟨_, rfl, rfl, rfl, (lookupCode_code he).symm, toNat_setWidth_code ha,
          toNat_setWidth_code hb, rfl, rfl, rfl⟩

/-- What the three ACK rows share: they parse their header and tail, and their code selects their kind. -/
theorem ackRow_chunk {row : List Byte → Instr} {code : Byte} {kind : Kind}
    (hrow : (row, code, kind) = (Instr.ackRead, 0x01#8, .read) ∨
      (row, code, kind) = (Instr.ackWrite, 0x02#8, .write) ∨
      (row, code, kind) = (Instr.ackSave, 0x08#8, .save)) (tail : List Byte) :
    channelOf (row tail) = .decode ∧ chunkOf (row tail) = frameHeader code ++ tail ∧
      ∃ e, lookupCode code = some e ∧ e.kind = kind := by
  rcases hrow with hrow | hrow | hrow <;> cases hrow <;> exact ⟨rfl, rfl, _, rfl, rfl⟩

/-- Settles O40: the pipeline on a header that is recognised, by what follows it. -/
theorem acknowledgementRows : Obligations.AcknowledgementRows := by
  unfold Obligations.AcknowledgementRows
  intro row code kind tail s hrow
  obtain ⟨hchannel, hchunk, e, he, rfl⟩ := ackRow_chunk hrow tail
  obtain ⟨t, hexec, hport⟩ := exec_decode_port hchannel s
  refine ⟨t, _, hexec, hport, ?_, ?_, ?_⟩ <;> rw [hchunk]
  · rintro rfl
    rw [parseAck_incomplete (by simp)]
    rfl
  · intro hne hlen
    rw [parseAck_header_bad_length he hne hlen]
    rfl
  · rintro a b h l rfl crc
    refine ⟨?_, ?_, ?_⟩
    · intro hcrc
      rw [parseAck_frame_bad_crc he hcrc]
      rfl
    · intro hcrc hatt
      rw [parseAck_frame_bad_att he hcrc hatt]
      rfl
    · intro hcrc ha hb
      rw [parseAck_frame_ok he hcrc ha hb, hcrc]
      rfl

end Sys2Proof.Machine
end

section
/-! The statement about lines that name no command. -/

namespace Sys2Proof.Machine

/-- Settles O26: without a token there is nothing to match, and any other byte is one the discriminator
maps to no kind. -/
theorem unknownCommandLine : Obligations.UnknownCommandLine := by
  unfold Obligations.UnknownCommandLine
  intro cmd args s hcmd
  obtain ⟨t, hexec, hport⟩ := exec_encode_port (i := .opEncode cmd args) rfl s
  have hline : encodeLine Config.tieRule cmd args = .error .unknownCommand := by
    cases cmd with
    | none => exact encodeLine_none _ args
    | some b => exact encodeLine_unknown (discriminate_none (hcmd b rfl))
  refine ⟨t, hexec, ?_⟩
  rw [hport, encodeResult, hline]
  rfl

end Sys2Proof.Machine
end

section
/-! The decoder of requests: what it answers for each port, and that the encodings give it their instruction. -/

namespace Sys2Proof

open Sys2Proof.Machine

/-- The match value of a kind's token row (R66). -/
def tokenOf : Kind → Byte
  | .read => 0x52#8
  | .write => 0x57#8
  | .save => 0x53#8

theorem discriminate_of_token {b : Byte} {k : Kind} (h : b &&& 0xDF#8 = tokenOf k) : discriminate b = some k := by
  cases k with
  | read => exact discriminate_read (tokenMatches_iff.mpr h)
  | write => exact discriminate_write (tokenMatches_iff.mpr h)
  | save => exact discriminate_save (tokenMatches_iff.mpr h)

/-- The discriminator answers a kind exactly on the bytes that kind's token row matches (R66, R123). -/
theorem discriminate_eq_some_iff {b : Byte} {k : Kind} :
    discriminate b = some k ↔ b &&& 0xDF#8 = tokenOf k := by
  refine ⟨fun h => ?_, discriminate_of_token⟩
  by_cases hb : ∃ k', b &&& 0xDF#8 = tokenOf k'
  · obtain ⟨k', hk'⟩ := hb
    rw [discriminate_of_token hk', Option.some_inj] at h
    rw [hk', h]
  · have hnone : b &&& 0xDF#8 ∉ [0x52#8, 0x57#8, 0x53#8] := by
      simp only [List.mem_cons, List.not_mem_nil, or_false, not_or]
      exact ⟨fun e => hb ⟨.read, e⟩, fun e => hb ⟨.write, e⟩, fun e => hb ⟨.save, e⟩⟩
    rw [discriminate_none hnone] at h
    cases h

/-- The instruction of a CMD row (R66, R72). -/
def cmdRow : Kind → Byte → List Operand → Instr
  | .read => .cmdR
  | .write => .cmdW
  | .save => .cmdS

theorem cmdRow_wellFormed {k : Kind} {b : Byte} {args : List Operand} :
    (cmdRow k b args).wellFormed = true ↔ discriminate b = some k := by
  rw [discriminate_eq_some_iff]
  cases k <;> exact tokenMatches_iff

theorem decodeLine_known {b : Byte} {k : Kind} (h : discriminate b = some k) (args : List Operand) :
    decodeLine (some b) args = cmdRow k b args := by
  cases k <;> simp only [decodeLine, h, cmdRow]

theorem decodeLine_unknown {b : Byte} (h : discriminate b = none) (args : List Operand) :
    decodeLine (some b) args = .opEncode (some b) args := by
  simp only [decodeLine, h]

theorem decodeLine_wellFormed (cmd : Option Byte) (args : List Operand) :
    (decodeLine cmd args).wellFormed = true := by
  cases cmd with
  | none => rfl
  | some b =>
    cases hk : discriminate b with
    | none => rw [decodeLine_unknown hk]; rfl
    | some k => rw [decodeLine_known hk]; exact cmdRow_wellFormed.mpr hk

/-- The instruction of an ACK row (R61, R72). -/
def ackRow : Kind → List Byte → Instr
  | .read => .ackRead
  | .write => .ackWrite
  | .save => .ackSave

theorem decodeChunk_known {rx tail : List Byte} {k : Kind} (h : recognise rx = some (k, tail)) :
    decodeChunk rx = ackRow k tail := by
  cases k <;> simp only [decodeChunk, h, ackRow]

theorem decodeChunk_unknown {rx : List Byte} (h : recognise rx = none) : decodeChunk rx = .opDecode rx := by
  simp only [decodeChunk, h]

theorem decodeChunk_wellFormed (rx : List Byte) : (decodeChunk rx).wellFormed = true := by
  cases hr : recognise rx with
  | none => rw [decodeChunk_unknown hr]; rfl
  | some p =>
    obtain ⟨k, tail⟩ := p
    rw [decodeChunk_known hr]
    cases k <;> rfl

theorem decodeChunk_header (k : Kind) (tail : List Byte) :
    decodeChunk (frameHeader (codeOf k) ++ tail) = ackRow k tail :=
  decodeChunk_known (by simp)

/-- The header and payload a REQ row stands for (R62). -/
def payloadOf : Instr → Option (List Byte)
  | .reqRead => some (requestPayload .read 0#6 0#6)
  | .reqWrite a b => some (requestPayload .write a b)
  | .reqSave => some (requestPayload .save 0#6 0#6)
  | _ => none

theorem encodeRequestFrame_eq (i : Instr) : encodeRequestFrame i = (payloadOf i).map serialize := by
  cases i <;> rfl

theorem wellFormed_of_payloadOf {i : Instr} {p : List Byte} (h : payloadOf i = some p) :
    i.wellFormed = true := by
  cases i with
  | reqRead => rfl
  | reqWrite a b => rfl
  | reqSave => rfl
  | _ => cases h

/-- An ATT byte is the extension of its code (R65). -/
theorem setWidth_setWidth_code {a : Byte} (h : a.toNat ≤ 63) : (a.setWidth 6 : Code).setWidth 8 = a := by
  apply BitVec.eq_of_toNat_eq
  rw [BitVec.toNat_setWidth, toNat_setWidth_code h, Nat.mod_eq_of_lt a.isLt]

/-- A code comes back from the ATT byte it is sent as (R65). -/
theorem setWidth_att (a : Code) : (a.setWidth 8 : Byte).setWidth 6 = a := by simp

theorem toNat_att (a : Code) : (a.setWidth 8 : Byte).toNat = a.toNat :=
  BitVec.toNat_setWidth_of_le (by decide)

theorem toNat_att_le (a : Code) : (a.setWidth 8 : Byte).toNat ≤ 63 := by
  have ha := a.isLt
  rw [toNat_att]
  omega

/-- The bytes handed to the serializer are a request layout exactly when they are the header and payload of
the REQ row they decode to (R62). -/
theorem decodePayload_eq_ok_iff {p : List Byte} {i : Instr} :
    decodePayload p = .ok i ↔ payloadOf i = some p := by
  constructor
  · intro h
    unfold decodePayload at h
    split at h
    next hr => cases h; simp [payloadOf, recognise_some hr, codeOf]
    next hr => cases h; simp [payloadOf, recognise_some hr, codeOf]
    next a b hr =>
      split at h
      next hatt =>
        cases h
        simp [payloadOf, recognise_some hr, codeOf, setWidth_setWidth_code hatt.1, setWidth_setWidth_code hatt.2]
      next => cases h
    next => cases h
  · intro h
    cases i with
    | reqRead => cases h; rfl
    | reqSave => cases h; rfl
    | reqWrite a b =>
      cases h
      have hr := recognise_header .write [a.setWidth 8, b.setWidth 8]
      rw [codeOf] at hr
      show decodePayload [0xAA#8, 0x55#8, 0x02#8, a.setWidth 8, b.setWidth 8] = _
      simp only [decodePayload, hr, toNat_att_le, and_self, if_true, setWidth_att]
    | _ => cases h

theorem decodeLineRaw_exact (cmd : Option Byte) (args : List Operand) :
    decodeLineRaw cmd (args.map RawOperand.exact) = .ok (decodeLine cmd args) := by
  simp only [decodeLineRaw, rawValues_exact]

theorem decodeEncodeRaw_exact (cmd : Option Byte) (args : List Operand) :
    decodeEncodeRaw cmd (args.map RawOperand.exact) = .ok (.opEncode cmd args) := by
  simp only [decodeEncodeRaw, rawValues_exact]

/-- Settles O9: a token selects its CMD row, a header its ACK row, header and payload their REQ row, and the OP
field its operation, each with the operands it carries. -/
theorem decodeEncodeAgree : Obligations.DecodeEncodeAgree := by
  unfold Obligations.DecodeEncodeAgree
  intro i hwf
  have hcmd {k : Kind} {b : Byte} {args : List Operand} (h : (cmdRow k b args).wellFormed = true) :
      decode (.encode (some b) (args.map RawOperand.exact)) = .ok (cmdRow k b args) := by
    rw [decode, decodeLineRaw_exact, decodeLine_known (cmdRow_wellFormed.mp h)]
  cases i with
  | cmdR b args => exact hcmd (k := .read) hwf
  | cmdW b args => exact hcmd (k := .write) hwf
  | cmdS b args => exact hcmd (k := .save) hwf
  | reqRead => exact (decodePayload_eq_ok_iff (i := .reqRead)).mpr rfl
  | reqWrite a b => exact (decodePayload_eq_ok_iff (i := .reqWrite a b)).mpr rfl
  | reqSave => exact (decodePayload_eq_ok_iff (i := .reqSave)).mpr rfl
  | ackRead tail => exact congrArg Except.ok (decodeChunk_header .read tail)
  | ackWrite tail => exact congrArg Except.ok (decodeChunk_header .write tail)
  | ackSave tail => exact congrArg Except.ok (decodeChunk_header .save tail)
  | opCrc16 buf n => rfl
  | opEncode cmd args => exact decodeEncodeRaw_exact cmd args
  | opDecode rx => rfl
  | opD2c v => rfl
  | opC2d c => rfl

/-- Settles O10: each port's decoder answers a row with what the row asks of its leading byte. -/
theorem decodedInstructionsAreWellFormed : Obligations.DecodedInstructionsAreWellFormed := by
  unfold Obligations.DecodedInstructionsAreWellFormed
  intro r i h
  have hencode (cmd : Option Byte) (args : List RawOperand) (he : decodeEncodeRaw cmd args = .ok i) :
      i.wellFormed = true := by
    unfold decodeEncodeRaw at he
    split at he <;> cases he
    rfl
  have hd2c (v : RawOperand) (hv : decodeD2cRaw v = .ok i) : i.wellFormed = true := by
    unfold decodeD2cRaw at hv
    split at hv <;> cases hv
    rfl
  cases r with
  | crc16 buf n => cases h; rfl
  | encode cmd args =>
    simp only [decode, decodeLineRaw] at h
    split at h <;> cases h
    exact decodeLine_wellFormed cmd _
  | decode rx => cases h; exact decodeChunk_wellFormed rx
  | d2c v => exact hd2c v h
  | c2d c => cases h; rfl
  | mux op l =>
    simp only [decode, decodeMux] at h
    split at h
    · cases h; rfl
    split at h
    · exact hencode _ _ h
    split at h
    · cases h; rfl
    split at h
    · exact hd2c _ h
    split at h
    · cases h; rfl
    · cases h
  | serializer p => exact wellFormed_of_payloadOf (decodePayload_eq_ok_iff.mp h)

theorem toOption_eq_some_iff {r : Except Reject Instr} {i : Instr} : r.toOption = some i ↔ r = .ok i := by
  cases r <;> simp [Except.toOption]

/-- Settles O11: the frame fixes the bytes before its CRC field, and those and their REQ row fix each other. -/
theorem requestFramesDecodeUniquely : Obligations.RequestFramesDecodeUniquely := by
  unfold Obligations.RequestFramesDecodeUniquely
  intro F i
  rw [encodeRequestFrame_eq, Option.map_eq_some_iff]
  constructor
  · intro h
    simp only [decodeRequestFrame] at h
    split at h
    next hF => exact ⟨_, decodePayload_eq_ok_iff.mp (toOption_eq_some_iff.mp h), hF⟩
    next => cases h
  · rintro ⟨p, hp, rfl⟩
    have htake : (serialize p).take ((serialize p).length - 2) = p := by simp
    simp only [decodeRequestFrame, htake, if_true, toOption_eq_some_iff.mpr (decodePayload_eq_ok_iff.mpr hp)]

/-- R71: the three OP values that select no operation. -/
theorem decodeMux_reserved {op : OpSel} (h : 4 < op.toNat) (l : Lanes) :
    decodeMux op l = .error (.reservedOp op) := by
  have hne {v : OpSel} (hv : v.toNat ≤ 4) : op ≠ v := by
    rintro rfl
    omega
  simp only [decodeMux, hne (v := 0b000#3) (by decide), hne (v := 0b001#3) (by decide),
    hne (v := 0b010#3) (by decide), hne (v := 0b011#3) (by decide), hne (v := 0b100#3) (by decide), if_false]

/-- Settles O5: no operand list holds an operand the port cannot carry, and OP above 4 selects nothing. -/
theorem unusableRequestsAreRefused : Obligations.UnusableRequestsAreRefused := by
  unfold Obligations.UnusableRequestsAreRefused
  intro s rest q
  have hencode (cmd : Option Byte) {args : List RawOperand} (h : RawOperand.inexact q ∈ args) :
      decodeEncodeRaw cmd args = .error .operandNotExpressible := by
    simp only [decodeEncodeRaw, rawValues_of_inexact h]
  refine ⟨?_, ?_, ?_, ?_, ?_⟩
  · intro op l hop hp
    exact step_rejected hp (decodeMux_reserved hop l)
  · intro cmd args hq hp
    have hd : decode (.encode cmd args) = .error .operandNotExpressible := by
      simp only [decode, decodeLineRaw, rawValues_of_inexact hq]
    exact step_rejected hp hd
  · intro l hq hp
    exact step_rejected hp (hencode l.cmd hq)
  · intro hp
    exact step_rejected hp rfl
  · intro l hv hp
    have hd : decode (.mux 0b011#3 l) = .error .operandNotExpressible := by
      show decodeD2cRaw l.v = _
      rw [hv]
      rfl
    exact step_rejected hp hd

/-- Settles O4: the five assigned OP values each read their own lanes, and the other three are reserved. -/
theorem operationSelectField : Obligations.OperationSelectField := by
  unfold Obligations.OperationSelectField
  intro l
  refine ⟨rfl, ?_, rfl, ?_, rfl, ?_⟩
  · intro vs hargs
    show decodeEncodeRaw l.cmd l.args = _
    rw [hargs, decodeEncodeRaw_exact]
  · intro v hv
    show decodeD2cRaw l.v = _
    rw [hv]
    rfl
  · intro op s rest hop hp
    have hlarge : 4 < op.toNat := by rcases hop with rfl | rfl | rfl <;> decide
    exact step_rejected hp (decodeMux_reserved hlarge l)

/-- Settles O6: each word goes to the row its table entry names. -/
theorem writtenOutWordsDecode : Obligations.WrittenOutWordsDecode := by
  unfold Obligations.WrittenOutWordsDecode
  refine ⟨?_, ?_, ?_, ?_, rfl⟩
  · exact decodeEncodeAgree (.cmdR 0x72#8 []) rfl
  · exact decodeEncodeAgree (.cmdW 0x57#8 [.notNum]) rfl
  · exact decodeEncodeAgree (.reqWrite 2#6 63#6) rfl
  · exact decodeEncodeAgree (.ackSave [0x02#8, 0x05#8, 0x75#8, 0x6D#8]) rfl

/-- Settles O7: the bytes a token row matches are its match value with bit 5 clear or set. -/
theorem commandBytesSelectKinds : Obligations.CommandBytesSelectKinds := by
  unfold Obligations.CommandBytesSelectKinds
  intro b
  simp only [discriminate_eq_some_iff, tokenOf]
  decide +revert

end Sys2Proof
end

section
/-! Requests, steps and runs: what each port shows after an instruction and after a run, and what no run
changes. -/

namespace Sys2Proof.Machine

theorem exec_fault_of_breach {buf : List Byte} {n : Nat} (h : buf.length < n) (s : State) :
    exec (.opCrc16 buf n) s = .fault .crcLengthContract := by
  rw [exec_opCrc16, if_neg (Nat.not_le.mpr h)]

theorem contractKept_of_next {i : Instr} {s t : State} (h : exec i s = .next t) : contractKept i = true :=
  (exec_next_iff_contractKept i s).mp ⟨t, h⟩

theorem contractKept_of_ne_opCrc16 {i : Instr} (h : ∀ buf n, i ≠ .opCrc16 buf n) : contractKept i = true := by
  cases i with
  | opCrc16 buf n => exact absurd rfl (h buf n)
  | _ => rfl

/-- The one delivery of an instruction that answers a next state (R24): `exec_cases` with the results named. -/
theorem exec_next_cases {i : Instr} {s t : State} (h : exec i s = .next t) :
    (channelOf i = .encode ∧ t = deliverEncode (encResponse (encodeResult i)) s) ∨
    (channelOf i = .decode ∧ t = deliverDecode (decResponse (parseAck (chunkOf i))) s) ∨
    (∃ buf n, i = .opCrc16 buf n ∧ n ≤ buf.length ∧ t = deliverCrc16 (crc16 buf n) s) ∨
    (∃ v, i = .opD2c v ∧ t = deliverD2c (d2cResponse (dbToCode Config.tieRule v)) s) ∨
    (∃ c, i = .opC2d c ∧ t = deliverC2d (codeToDb c) s) := by
  rcases exec_cases i s with ⟨_, hc, -⟩ | ⟨_, hc, -⟩ | ⟨buf, n, hi, hn, e⟩ | ⟨_, _, -, -, e⟩ | ⟨v, hi, e⟩ | ⟨c, hi, e⟩
  · rw [exec_encode hc] at h
    exact .inl ⟨hc, (Host.Outcome.next.inj h).symm⟩
  · rw [exec_decode hc] at h
    exact .inr (.inl ⟨hc, (Host.Outcome.next.inj h).symm⟩)
  · rw [e] at h
    exact .inr (.inr (.inl ⟨buf, n, hi, hn, (Host.Outcome.next.inj h).symm⟩))
  · rw [e] at h
    cases h
  · rw [e] at h
    exact .inr (.inr (.inr (.inl ⟨v, hi, (Host.Outcome.next.inj h).symm⟩)))
  · rw [e] at h
    exact .inr (.inr (.inr (.inr ⟨c, hi, (Host.Outcome.next.inj h).symm⟩)))

/-- Every port after an instruction: its own shows the response it gets alone, the others what they showed
(R24, R48, R51). -/
theorem exec_response {i : Instr} {s t : State} (h : exec i s = .next t) (c : Channel) :
    t.response c = if channelOf i = c then responseAlone i else s.response c := by
  rcases exec_next_cases h with ⟨hc, rfl⟩ | ⟨hc, rfl⟩ | ⟨buf, n, rfl, hn, rfl⟩ | ⟨v, rfl, rfl⟩ | ⟨code, rfl, rfl⟩
  · rw [responseAlone, exec_encode hc, hc]
    cases c <;> rfl
  · rw [responseAlone, exec_decode hc, hc]
    cases c <;> rfl
  · rw [responseAlone, exec_opCrc16_of_le hn]
    cases c <;> rfl
  · cases c <;> rfl
  · cases c <;> rfl

theorem exec_response_own {i : Instr} {s t : State} (h : exec i s = .next t) :
    t.response (channelOf i) = responseAlone i := by
  rw [exec_response h, if_pos rfl]

/-- A fault is the contract's, and does not depend on the state (R214). -/
theorem exec_fault_iff {i : Instr} {s : State} {f : Fault} :
    exec i s = .fault f ↔ contractKept i = false := by
  constructor
  · intro h
    rw [← Bool.not_eq_true, ← exec_next_iff_contractKept i s, h]
    rintro ⟨t, ht⟩
    cases ht
  · intro h
    cases i with
    | opCrc16 buf n =>
      have hn : buf.length < n := by simpa [contractKept] using h
      rw [exec_fault_of_breach hn]
    | _ => cases h

theorem run_succ_eq_next_iff {k : Nat} {s t : State} :
    Host.Core.run core (k + 1) s = .next t ↔
      ∃ u, step s = .next u ∧ Host.Core.run core k u = .next t := by
  cases hs : step s with
  | next u => simp [run_succ_of_next k hs]
  | fault f => simp [run_succ_of_fault k hs]
  | refused r => simp [run_succ_of_refused k hs]

theorem run_idle {s : State} (h : s.pending = []) (k : Nat) : Host.Core.run core k s = .next s := by
  induction k with
  | zero => rfl
  | succ k ih => rw [run_succ_of_next k (step_idle h), ih]

/-- No run changes the record of abandoned requests: only a reset does (R230). -/
theorem run_abandoned {k : Nat} {s t : State} (h : Host.Core.run core k s = .next t) :
    t.abandoned = s.abandoned := by
  induction k generalizing s with
  | zero => cases h; rfl
  | succ k ih =>
    obtain ⟨u, hu, hrun⟩ := run_succ_eq_next_iff.mp h
    rw [ih hrun, step_abandoned hu]

theorem foldl_accept_abandoned (rs : List Request) (s : State) :
    (rs.foldl State.accept s).abandoned = s.abandoned := by
  induction rs generalizing s with
  | nil => rfl
  | cons r rs ih => rw [List.foldl_cons, ih, accept_abandoned]

@[simp] theorem response_with_pending (s : State) (p : List Request) (c : Channel) :
    State.response { s with pending := p } c = s.response c := by
  cases c <;> rfl

/-- A step that answers the oldest request: what is behind it stays, and every port is accounted for. -/
theorem step_answers {s : State} {r : Request} {rest : List Request} {i : Instr} (hp : s.pending = r :: rest)
    (hd : decode r = .ok i) (hi : contractKept i = true) :
    ∃ u, step s = .next u ∧ u.pending = rest ∧
      ∀ c, u.response c = if channelOf i = c then responseAlone i else s.response c := by
  obtain ⟨u, hu⟩ := (exec_next_iff_contractKept i { s with pending := rest }).mpr hi
  refine ⟨u, by rw [step_decoded hp hd, hu], exec_pending hu, fun c => ?_⟩
  rw [exec_response hu, response_with_pending]

/-- As many steps as there are answerable requests answer exactly these, each as if it were alone (R51). -/
theorem run_answers {k : Nat} {s : State} (hk : k ≤ s.pending.length)
    (hans : ∀ r ∈ s.pending.take k, answered r = true) :
    ∃ t : State, Host.Core.run core k s = .next t ∧ t.pending = s.pending.drop k ∧
      ∀ c, t.response c = shownAfter c (s.response c) (s.pending.take k) := by
  induction k generalizing s with
  | zero => exact ⟨s, rfl, rfl, fun c => rfl⟩
  | succ k ih =>
    cases hp : s.pending with
    | nil => simp [hp] at hk
    | cons r rest =>
      simp only [hp, List.length_cons, Nat.add_le_add_iff_right, List.take_succ_cons, List.forall_mem_cons]
        at hk hans
      obtain ⟨hr, hrest⟩ := hans
      obtain ⟨i, hd, hi⟩ := (answered_iff r).mp hr
      obtain ⟨u, hu, rfl, hresp⟩ := step_answers hp hd hi
      obtain ⟨t, ht, hpend, hshow⟩ := ih hk hrest
      refine ⟨t, by rw [run_succ_of_next k hu, ht], hpend, fun c => ?_⟩
      rw [hshow, hresp, List.take_succ_cons, shownAfter_cons hd]

/-- A run over the first request that answers a state answered that request. -/
theorem run_succ_answered {k : Nat} {s t : State} {r : Request} {rest : List Request}
    (h : Host.Core.run core (k + 1) s = .next t) (hp : s.pending = r :: rest) :
    answered r = true ∧ ∃ u : State, u.pending = rest ∧ Host.Core.run core k u = .next t := by
  obtain ⟨u, hu, hrun⟩ := run_succ_eq_next_iff.mp h
  rcases step_next_cases hu with ⟨hnil, -⟩ | ⟨q, rest', i, hq, hd, he⟩
  · rw [hnil] at hp
    cases hp
  · obtain ⟨rfl, rfl⟩ := List.cons.inj (hq.symm.trans hp)
    exact ⟨(answered_iff q).mpr ⟨i, hd, contractKept_of_next he⟩, u, exec_pending he, hrun⟩

theorem run_two_answers {s : State} {r r' : Request} {rest : List Request} (hr : answered r = true)
    (hr' : answered r' = true) :
    ∃ t : State, Host.Core.run core 2 { s with pending := r :: r' :: rest } = .next t ∧ t.pending = rest ∧
      ∀ c, t.response c = shownAfter c (s.response c) [r, r'] := by
  obtain ⟨t, hrun, hpend, hshow⟩ :=
    run_answers (k := 2) (s := { s with pending := r :: r' :: rest }) (by simp) (by simp [hr, hr'])
  exact ⟨t, hrun, hpend, fun c => by rw [hshow, response_with_pending]; rfl⟩

end Sys2Proof.Machine
end

section
/-! The statements about steps, faults, isolation and runs. -/

namespace Sys2Proof.Machine

/-- Settles O1: nothing stands around `exec` in a step on a request that decodes. -/
theorem stepRunsTheDecodedRequest : Obligations.StepRunsTheDecodedRequest := by
  unfold Obligations.StepRunsTheDecodedRequest
  intro s r rest i hp hd
  exact step_decoded hp hd

/-- Settles O2: a step looks at `pending` first. -/
theorem idleStepChangesNothing : Obligations.IdleStepChangesNothing := by
  unfold Obligations.IdleStepChangesNothing
  intro s hp
  exact step_idle hp

/-- Settles O3: an accepted request stands at the end of the queue, so it is the oldest only of an idle block. -/
theorem acceptedRequestIsAnsweredInTurn : Obligations.AcceptedRequestIsAnsweredInTurn := by
  unfold Obligations.AcceptedRequestIsAnsweredInTurn
  intro s r i hd
  constructor
  · intro hidle
    have hp : (s.accept r).pending = r :: [] := by simp [hidle]
    have hs : { s.accept r with pending := [] } = s := by
      cases s
      cases hidle
      rfl
    rw [step_decoded hp hd, hs]
  · intro q rest j hbusy hq
    have hp : (s.accept r).pending = q :: (rest ++ [r]) := by simp [hbusy]
    rw [step_decoded hp hq]
    rfl

/-- Settles O13: reset builds an idle state with empty ports, and an idle state stays as it is. -/
theorem resetAbandonsRequests : Obligations.ResetAbandonsRequests := by
  unfold Obligations.ResetAbandonsRequests
  intro s
  refine ⟨rfl, rfl, ?_, run_idle rfl, rfl, rfl, ?_⟩
  · intro c
    cases c <;> rfl
  · intro c
    cases c <;> rfl

/-- Settles O19: the guard of OP_CRC16 is the only source of a fault, and a run stops at it. -/
theorem crcContractBreachFaultsTheRun : Obligations.CrcContractBreachFaultsTheRun := by
  unfold Obligations.CrcContractBreachFaultsTheRun
  refine ⟨fun buf n s h => exec_fault_of_breach h s, ?_, ?_⟩
  · intro buf n s r rest hp hd hn k
    have hstep : step s = .fault .crcLengthContract := by
      rw [step_decoded hp hd, exec_fault_of_breach hn]
    exact run_succ_of_fault k hstep
  · intro i s hi
    exact (exec_next_iff_contractKept i s).mpr (contractKept_of_ne_opCrc16 hi)

/-- Settles O50: an instruction delivers on its own channel only. -/
theorem channelsAreIsolated : Obligations.ChannelsAreIsolated := by
  unfold Obligations.ChannelsAreIsolated
  intro i s t c h hc
  exact ⟨by rw [exec_response h, if_neg hc.symm], exec_pending h, exec_abandoned h⟩

/-- Settles O51: the response on its own channel is the one the instruction gets alone, in every state. -/
theorem sameRequestSameResponse : Obligations.SameRequestSameResponse := by
  unfold Obligations.SameRequestSameResponse
  intro i s s'
  constructor
  · intro t h
    have hnext (u : State) : ∃ u', exec i u = .next u' :=
      (exec_next_iff_contractKept i u).mpr (contractKept_of_next h)
    constructor
    · obtain ⟨t', h'⟩ := hnext s'
      exact ⟨t', h', by rw [exec_response_own h', exec_response_own h]⟩
    · obtain ⟨t2, h2⟩ := hnext t
      refine ⟨t2, h2, fun c => ?_⟩
      rw [exec_response h2]
      split
      next hc => rw [← hc, exec_response_own h]
      next => rfl
  · intro f h
    exact exec_fault_iff.mpr (exec_fault_iff.mp h)

/-- Settles O53: induction on the number of steps, each answering the oldest request as if it were alone. -/
theorem everyRequestIsAnsweredAsAlone : Obligations.EveryRequestIsAnsweredAsAlone := by
  unfold Obligations.EveryRequestIsAnsweredAsAlone
  intro s k hk hans
  obtain ⟨t, hrun, hpend, hshow⟩ := run_answers hk hans
  have hab : t.abandoned = s.abandoned := run_abandoned hrun
  have hfinal : t.final = true ↔ k = s.pending.length ∧ s.abandoned = [] := by
    rw [final_iff, hpend, hab, List.drop_eq_nil_iff]
    exact and_congr_left fun _ => ⟨fun h => Nat.le_antisymm hk h, fun h => h.ge⟩
  exact ⟨t, hrun, hpend, hshow, hab, hfinal⟩

/-- Settles O52: both runs answer two requests, and on different channels neither response hides the other. -/
theorem orderOfRequestsIsUnobservable : Obligations.OrderOfRequestsIsUnobservable := by
  unfold Obligations.OrderOfRequestsIsUnobservable
  intro s t r r' rest i i' hd hd' hne hrun
  obtain ⟨hr, u, hu, hrun'⟩ := run_succ_answered hrun rfl
  obtain ⟨hr', -⟩ := run_succ_answered hrun' hu
  obtain ⟨v, hv, hpend, hshow⟩ := run_two_answers (s := s) (rest := rest) hr hr'
  obtain ⟨t', ht', hpend', hshow'⟩ := run_two_answers (s := s) (rest := rest) hr' hr
  obtain rfl : v = t := by
    rw [hv] at hrun
    cases hrun
    rfl
  have hab : t'.abandoned = v.abandoned := (run_abandoned ht').trans (run_abandoned hv).symm
  have hports (c : Channel) : t'.response c = v.response c := by
    rw [hshow', hshow, shownAfter_cons hd, shownAfter_cons hd', shownAfter_cons hd, shownAfter_cons hd', shownAfter,
      shownAfter]
    by_cases hc : channelOf i = c
    · have hc' : channelOf i' ≠ c := fun h => hne (hc.trans h.symm)
      rw [if_pos hc, if_neg hc', if_pos hc]
    · rw [if_neg hc, if_neg hc]
  exact ⟨t', ht', hpend'.trans hpend.symm, hab, hports⟩

/-- Settles O54: neither accepting a request nor a step touches the record a reset leaves. -/
theorem abandonedRequestKeepsTheRunOpen : Obligations.AbandonedRequestKeepsTheRunOpen := by
  unfold Obligations.AbandonedRequestKeepsTheRunOpen
  intro s t rs k hne hrun
  have hab : t.abandoned = s.abandoned ++ s.pending :=
    (run_abandoned hrun).trans (foldl_accept_abandoned rs s.afterReset)
  constructor
  · rw [← Bool.not_eq_true, final_iff, hab]
    simp [hne]
  · rw [hab]
    exact List.suffix_append _ _

end Sys2Proof.Machine
end

section
/-! The Checksum Engine bit by bit: a round on an XOR, its linearity, and that it loses no information. -/

namespace Sys2Proof.Machine

/-- One input bit into the accumulator (R44): shift right, and XOR the polynomial when the low bit and the
input bit differ. -/
def crcBit (acc : U16) (bit : Bool) : U16 := if acc.getLsbD 0 != bit then (acc >>> 1) ^^^ 0xA001#16 else acc >>> 1

/-- A round on an accumulator into which `z` has been XORed takes the low bit of `z` and leaves the rest of `z`
for the rounds after it. -/
theorem crcRound_xor (acc z : U16) : crcRound (acc ^^^ z) = crcBit acc (z.getLsbD 0) ^^^ (z >>> 1) := by
  rw [crcRound, crcBit, BitVec.getLsbD_xor, BitVec.ushiftRight_xor_distrib]
  split
  · rw [crcPoly, BitVec.xor_assoc, BitVec.xor_assoc, BitVec.xor_comm (z >>> 1)]
  · rfl

/-- After `k` rounds the low `k` bits of `z` have been taken, bit 0 first. -/
theorem crcRounds_xor (acc z : U16) (k : Nat) :
    crcRounds k (acc ^^^ z) = ((List.range k).map z.getLsbD).foldl crcBit acc ^^^ (z >>> k) := by
  rw [crcRounds_eq_iterate]
  induction k with
  | zero => rfl
  | succ k ih =>
    rw [Function.iterate_succ_apply', ih, crcRound_xor, ← BitVec.shiftRight_add, List.range_succ, List.map_append,
      List.foldl_append]
    simp

/-- Settles O20: a byte has no bits left after eight rounds. -/
theorem crcTakesBitsLowFirst : Obligations.CrcTakesBitsLowFirst := by
  unfold Obligations.CrcTakesBitsLowFirst
  intro acc b
  have hrest : (b.setWidth 16 : U16) >>> 8 = 0#16 := by
    apply BitVec.eq_of_toNat_eq
    have hb := b.isLt
    simp [Nat.shiftRight_eq_div_pow]
    omega
  have hbits : (List.range 8).map (b.setWidth 16 : U16).getLsbD = (List.range 8).map b.getLsbD :=
    List.map_congr_left fun i hi => by
      rw [List.mem_range] at hi
      rw [BitVec.getLsbD_setWidth]
      simp
      omega
  rw [crcByte, crcRounds_xor, hrest, hbits, BitVec.xor_zero]
  rfl

/-- A round is linear: the polynomial is XORed in once for each low bit that is set, and twice is not at all. -/
theorem crcRound_xor_distrib (x y : U16) : crcRound (x ^^^ y) = crcRound x ^^^ crcRound y := by
  have hcancel (u v : U16) : (u ^^^ crcPoly) ^^^ (v ^^^ crcPoly) = u ^^^ v := by
    rw [BitVec.xor_assoc, BitVec.xor_comm v, ← BitVec.xor_assoc crcPoly, BitVec.xor_self, BitVec.zero_xor]
  rw [crcRound, crcRound, crcRound, BitVec.getLsbD_xor, BitVec.ushiftRight_xor_distrib]
  cases x.getLsbD 0 with
  | false =>
    cases y.getLsbD 0 with
    | false => rfl
    | true => exact BitVec.xor_assoc _ _ _
  | true =>
    cases y.getLsbD 0 with
    | false =>
      show ((x >>> 1) ^^^ (y >>> 1)) ^^^ crcPoly = ((x >>> 1) ^^^ crcPoly) ^^^ (y >>> 1)
      ac_rfl
    | true => exact (hcancel _ _).symm

theorem crcRounds_xor_distrib (k : Nat) (x y : U16) :
    crcRounds k (x ^^^ y) = crcRounds k x ^^^ crcRounds k y := by
  induction k generalizing x y with
  | zero => rfl
  | succ k ih => rw [crcRounds, crcRound_xor_distrib, ih]; rfl

theorem crcByte_xor_distrib (acc acc' : U16) (b b' : Byte) :
    crcByte (acc ^^^ acc') (b ^^^ b') = crcByte acc b ^^^ crcByte acc' b' := by
  rw [crcByte, crcByte, crcByte, ← crcRounds_xor_distrib, BitVec.setWidth_xor]
  congr 1
  ac_rfl

/-- Settles O21: induction on the first list, with the byte step linear in accumulator and byte together. -/
theorem crcOfXorIsXorOfCrcs : Obligations.CrcOfXorIsXorOfCrcs := by
  unfold Obligations.CrcOfXorIsXorOfCrcs
  intro a b xs ys hlen
  induction xs generalizing a b ys with
  | nil =>
    obtain rfl := List.length_eq_zero_iff.mp hlen.symm
    rfl
  | cons x xs ih =>
    cases ys with
    | nil => cases hlen
    | cons y ys =>
      rw [crcFold_cons, crcFold_cons, List.zipWith_cons_cons, crcFold_cons, crcByte_xor_distrib]
      exact ih _ _ _ (Nat.succ.inj hlen)

/-- Only 0 becomes 0 in a round: 0xA001 is too large to be cancelled by a number shifted right. -/
theorem crcRound_eq_zero {x : U16} (h : crcRound x = 0#16) : x = 0#16 := by
  have hnum := crcRound_toNat x
  have hx := x.isLt
  rw [h] at hnum
  apply BitVec.eq_of_toNat_eq
  split at hnum
  next =>
    have hcancel : x.toNat / 2 = 0xA001 := Nat.xor_eq_zero_iff.mp hnum.symm
    omega
  next =>
    rw [BitVec.toNat_zero] at hnum ⊢
    omega

theorem crcRound_injective : Function.Injective crcRound := by
  intro x y h
  have hxor : crcRound (x ^^^ y) = 0#16 := by rw [crcRound_xor_distrib, h, BitVec.xor_self]
  exact BitVec.xor_eq_zero_iff.mp (crcRound_eq_zero hxor)

theorem crcRounds_injective (k : Nat) : Function.Injective (crcRounds k) := by
  rw [funext (crcRounds_eq_iterate k)]
  exact crcRound_injective.iterate k

theorem crcByte_left_injective (b : Byte) : Function.Injective (crcByte · b) := by
  intro x y h
  exact (BitVec.xor_left_inj _).mp (crcRounds_injective 8 h)

theorem crcByte_right_injective (acc : U16) : Function.Injective (crcByte acc) := by
  intro b b' h
  have hext : b.setWidth 16 = b'.setWidth 16 := (BitVec.xor_right_inj _).mp (crcRounds_injective 8 h)
  simpa using congrArg (BitVec.setWidth 8) hext

theorem crcFold_injective (bs : List Byte) : Function.Injective (crcFold · bs) := by
  induction bs with
  | nil => exact Function.injective_id
  | cons b bs ih => exact ih.comp (crcByte_left_injective b)

/-- The reason one changed byte is caught (R165): what follows it does not make up for it. -/
theorem crcFold_set_ne {P : List Byte} {k : Nat} {v : Byte} (hk : k < P.length) (hv : P[k]? ≠ some v)
    (acc : U16) : crcFold acc (P.set k v) ≠ crcFold acc P := by
  induction P generalizing acc k with
  | nil => cases hk
  | cons b bs ih =>
    cases k with
    | zero =>
      have hne : b ≠ v := by simpa using hv
      intro h
      exact hne (crcByte_right_injective acc (crcFold_injective bs h)).symm
    | succ k =>
      exact ih (Nat.lt_of_succ_lt_succ hk) hv _

/-- Settles O18: the fold runs over the first `n` bytes only. -/
theorem crc16ReadsOnlyTheFirstBytes : Obligations.Crc16ReadsOnlyTheFirstBytes := by
  unfold Obligations.Crc16ReadsOnlyTheFirstBytes
  constructor
  · intro p q q' s
    refine ⟨_, _, exec_opCrc16_of_le (by simp) s, exec_opCrc16_of_le (by simp) s, ?_⟩
    rw [deliverCrc16_crc16Port, deliverCrc16_crc16Port, crc16_append, crc16_append]
  · intro buf s
    exact ⟨_, exec_opCrc16_of_le (Nat.zero_le _) s, rfl⟩

end Sys2Proof.Machine
end

section
/-! Rounding as a function of its argument: integers are fixed, the order is kept, and nothing moves by more
than one half; and the conversions built on it. -/

namespace Sys2Proof.Machine

@[simp] theorem roundT_intCast (tie : TieRule) (n : Int) : roundT tie (n : Rat) = n :=
  le_antisymm (roundT_le tie le_rfl) (le_roundT tie le_rfl)

theorem floor_le_roundT (tie : TieRule) (t : Rat) : t.floor ≤ roundT tie t := by
  rcases roundT_eq_floor_or tie t with e | e <;> omega

/-- R121: the fraction is at most 1/2 when `round_T` goes down and at least 1/2 when it goes up. -/
theorem abs_roundT_sub_le (tie : TieRule) (t : Rat) : |(roundT tie t : Rat) - t| ≤ 1 / 2 := by
  have hlow : (t.floor : Rat) ≤ t := Rat.floor_le t
  have hhigh : t < (t.floor : Rat) + 1 := by exact_mod_cast Rat.lt_floor_add_one t
  rw [abs_le]
  rcases lt_trichotomy (t - t.floor) (1 / 2) with h | h | h
  · rw [roundT_below_half h]
    constructor <;> linarith
  · rcases roundT_eq_floor_or tie t with e | e
    · rw [e]
      constructor <;> linarith
    · rw [e]
      push_cast
      constructor <;> linarith
  · rw [roundT_above_half h]
    push_cast
    constructor <;> linarith

/-- R121: numbers with one floor are rounded by their fractions, and other numbers by their floors. -/
theorem roundT_mono (tie : TieRule) {t t' : Rat} (h : t ≤ t') : roundT tie t ≤ roundT tie t' := by
  have hfloor : t.floor ≤ t'.floor := Rat.floor_monotone h
  rcases hfloor.lt_or_eq with hlt | heq
  · have hup : roundT tie t ≤ t.floor + 1 := by rcases roundT_eq_floor_or tie t with e | e <;> omega
    exact hup.trans (le_trans hlt (floor_le_roundT tie t'))
  · rcases h.eq_or_lt with rfl | hlt
    · rfl
    · rcases lt_or_ge (t - t.floor) (1 / 2) with hd | hd
      · rw [roundT_below_half hd, heq]
        exact floor_le_roundT tie t'
      · have hd' : 1 / 2 < t' - t'.floor := by
          rw [← heq]
          linarith
        rw [roundT_above_half hd', ← heq]
        rcases roundT_eq_floor_or tie t with e | e <;> omega

/-- A tie is half an odd integer (R121). -/
theorem sub_floor_eq_half_iff {t : Rat} : t - t.floor = 1 / 2 ↔ ∃ k : Int, t = (2 * k + 1) / 2 := by
  constructor
  · intro h
    exact ⟨t.floor, by linarith⟩
  · rintro ⟨k, rfl⟩
    have hfloor : ((2 * (k : Rat) + 1) / 2).floor = k := by
      show ⌊(2 * (k : Rat) + 1) / 2⌋ = k
      rw [Int.floor_eq_iff]
      constructor <;> linarith
    rw [hfloor]
    ring

/-- Settles O32: the branches of `round_T`, its bounds on an interval with integer ends, and its ties. -/
theorem roundTDefinition : Obligations.RoundTDefinition := by
  unfold Obligations.RoundTDefinition
  constructor
  · intro tie t h0 h1
    refine ⟨roundT_below_half, roundT_above_half, ?_, ?_, le_roundT tie (by exact_mod_cast h0),
      roundT_le tie (by exact_mod_cast h1)⟩
    · rintro h rfl
      exact roundT_half_even h
    · rintro h rfl
      exact roundT_half_away h
  · intro v
    rw [sub_floor_eq_half_iff]
    exact exists_congr fun k => ⟨fun h => by linarith, fun h => by linarith⟩

/-- D2C on a number in range (R122): the code, and the rounded number it is. -/
theorem exec_opD2c_in_range {q : Rat} (h0 : 0 ≤ q) (h1 : q ≤ 63 / 2) (s : State) :
    ∃ c : Code, exec (.opD2c (.num q)) s = .next (deliverD2c ⟨.ok, some c⟩ s) ∧
      (c.toNat : Int) = roundT Config.tieRule (2 * q) := by
  refine ⟨_, ?_, ofInt_roundT_toNat Config.tieRule h0 h1⟩
  rw [exec_opD2c, dbToCode_in_range h0 h1]
  rfl

/-- The range check refuses whatever it does not take (R122). -/
theorem dbToCode_not_inRange (tie : TieRule) {v : Operand} (h : inRange v = false) :
    dbToCode tie v = .error .invalidArgument := by
  cases hv : dbToCode tie v with
  | error e => rw [dbToCode_error hv]
  | ok c =>
    rw [inRange_of_dbToCode hv] at h
    cases h

/-- A rounded code is within a quarter dB of the number it was rounded from (R121). -/
theorem abs_half_code_sub_le {tie : TieRule} {q : Rat} {c : Code} (h : (c.toNat : Int) = roundT tie (2 * q)) :
    |(c.toNat : Rat) / 2 - q| ≤ 1 / 4 := by
  have hround := abs_roundT_sub_le tie (2 * q)
  rw [← h, Int.cast_natCast, abs_le] at hround
  rw [abs_le]
  constructor <;> linarith

/-- R136: the dB value of a code is mapped to that code, whatever the tie rule. -/
theorem dbToCode_half (tie : TieRule) (c : Code) : dbToCode tie (.num ((c.toNat : Rat) / 2)) = .ok c := by
  have hc : c.toNat ≤ 63 := Nat.le_of_lt_succ c.isLt
  have hle : (c.toNat : Rat) ≤ 63 := by exact_mod_cast hc
  have hint : 2 * ((c.toNat : Rat) / 2) = ((c.toNat : Int) : Rat) := by
    rw [Int.cast_natCast]
    ring
  rw [dbToCode_in_range (by positivity) (by linarith), hint, roundT_intCast]
  simp

/-- Settles O33: both branches of the range check, and D2C's delivery. -/
theorem d2cResult : Obligations.D2cResult := by
  unfold Obligations.D2cResult
  constructor
  · intro q s h0 h1
    exact exec_opD2c_in_range h0 h1 s
  · intro v s hv
    rw [exec_opD2c, dbToCode_not_inRange _ hv]
    rfl

/-- Settles O34: the code is twice the number, moved by at most one half. -/
theorem d2cIsWithinAQuarterDb : Obligations.D2cIsWithinAQuarterDb := by
  unfold Obligations.D2cIsWithinAQuarterDb
  intro q s h0 h1
  obtain ⟨c, hexec, hc⟩ := exec_opD2c_in_range h0 h1 s
  exact ⟨_, c, hexec, rfl, abs_half_code_sub_le hc⟩

/-- Settles O35: rounding keeps the order. -/
theorem d2cIsMonotone : Obligations.D2cIsMonotone := by
  unfold Obligations.D2cIsMonotone
  intro q q' s h0 hqq' h1
  obtain ⟨c, hexec, hc⟩ := exec_opD2c_in_range h0 (hqq'.trans h1) s
  obtain ⟨c', hexec', hc'⟩ := exec_opD2c_in_range (h0.trans hqq') h1 s
  have hle : roundT Config.tieRule (2 * q) ≤ roundT Config.tieRule (2 * q') := roundT_mono _ (by linarith)
  exact ⟨_, _, c, c', hexec, rfl, hexec', rfl, by omega⟩

/-- Settles O36: the response is the quotient, and C2D's delivery changes its port only. -/
theorem c2dHalves : Obligations.C2dHalves := by
  unfold Obligations.C2dHalves
  intro c s
  exact exec_opC2d c s

/-- Settles O37: twice the dB value is an integer, which rounding leaves alone. -/
theorem dbRoundTrip : Obligations.DbRoundTrip := by
  unfold Obligations.DbRoundTrip
  intro k s hk
  obtain ⟨c, rfl⟩ : ∃ c : Code, c.toNat = k := ⟨BitVec.ofNat 6 k, Nat.mod_eq_of_lt (by omega)⟩
  have hd2c : exec (.opD2c (.num ((c.toNat : Rat) / 2))) s = .next (deliverD2c ⟨.ok, some c⟩ s) := by
    rw [exec_opD2c, dbToCode_half]
    rfl
  exact ⟨_, _, c, hd2c, rfl, exec_opC2d c _, rfl, fun tie => dbToCode_half tie c⟩

end Sys2Proof.Machine
end

section
/-! The ENCODE channel: lines with one result, and the request frames byte by byte. -/

namespace Sys2Proof.Machine

/-- An instruction on the ENCODE channel with the result a kind gives these operands does what OP_ENCODE does with
a line of that kind (R120). -/
theorem exec_eq_opEncode {i : Instr} {b : Byte} {k : Kind} {args : List Operand} (hi : channelOf i = .encode)
    (hk : discriminate b = some k) (hres : encodeResult i = encodeKind Config.tieRule k args) (s : State) :
    exec i s = exec (.opEncode (some b) args) s := by
  rw [exec_encode hi, exec_encode (i := .opEncode (some b) args) rfl, hres, encodeResult, encodeLine_known hk]

/-- Operands after the second are not read (R26): a count other than the kind's is refused unread, and no kind
asks for more than two. -/
theorem encodeKind_congr_take (tie : TieRule) (k : Kind) {args args' : List Operand}
    (hlen : args.length = args'.length) (htake : args.take 2 = args'.take 2) :
    encodeKind tie k args = encodeKind tie k args' := by
  by_cases hcount : args.length = expectedArgs k
  · have htwo : args.length ≤ 2 := by
      rw [hcount]
      cases k <;> decide
    rw [List.take_of_length_le htwo, List.take_of_length_le (hlen ▸ htwo)] at htake
    rw [htake]
  · rw [encodeKind_bad_count tie hcount, encodeKind_bad_count tie (hlen ▸ hcount)]

theorem encodeLine_congr_take (tie : TieRule) (cmd : Option Byte) {args args' : List Operand}
    (hlen : args.length = args'.length) (htake : args.take 2 = args'.take 2) :
    encodeLine tie cmd args = encodeLine tie cmd args' := by
  cases cmd with
  | none => rfl
  | some b =>
    cases hk : discriminate b with
    | none => rw [encodeLine_unknown hk, encodeLine_unknown hk]
    | some k => rw [encodeLine_known hk, encodeLine_known hk, encodeKind_congr_take tie k hlen htake]

/-- The bytes before the CRC field of a frame are the ones the serializer is given (R130). -/
theorem serialize_getElem?_of_lt {P : List Byte} {k : Nat} (h : k < P.length) : (serialize P)[k]? = P[k]? := by
  rw [serialize_eq, List.getElem?_append_left h]

/-- The CRC field of a frame, high byte first (R43, R130). -/
theorem serialize_crcField (P : List Byte) :
    (serialize P)[P.length]? = some (hiByte (crc16 (serialize P) P.length)) ∧
      (serialize P)[P.length + 1]? = some (loByte (crc16 (serialize P) P.length)) := by
  rw [serialize_eq, crc16_append]
  simp

/-- Settles O29: the leading byte of a well-formed row selects the row's own kind. -/
theorem commandRowsRefineEncode : Obligations.CommandRowsRefineEncode := by
  unfold Obligations.CommandRowsRefineEncode
  intro b args s
  exact ⟨fun hwf => exec_eq_opEncode rfl (discriminate_read hwf) rfl s,
    fun hwf => exec_eq_opEncode rfl (discriminate_write hwf) rfl s,
    fun hwf => exec_eq_opEncode rfl (discriminate_save hwf) rfl s⟩

/-- Settles O30: r and s expect no operand, and the dB value of a code is mapped back to the code. -/
theorem requestRowsAreWhatEncodeSends : Obligations.RequestRowsAreWhatEncodeSends := by
  unfold Obligations.RequestRowsAreWhatEncodeSends
  intro a b s
  have hwrite : encodeResult (.reqWrite a b) =
      encodeKind Config.tieRule .write [.num ((a.toNat : Rat) / 2), .num ((b.toNat : Rat) / 2)] :=
    (encodeWrite_ok (dbToCode_half _ a) (dbToCode_half _ b)).symm
  exact ⟨exec_eq_opEncode rfl (discriminate_read rfl) rfl s, exec_eq_opEncode rfl (discriminate_save rfl) rfl s,
    exec_eq_opEncode rfl (discriminate_write rfl) hwrite s⟩

/-- Settles O31: the result of a line is the same for both operand lists. -/
theorem operandsPastTheSecondAreNotRead : Obligations.OperandsPastTheSecondAreNotRead := by
  unfold Obligations.OperandsPastTheSecondAreNotRead
  intro cmd args args' s hlen htake
  rw [exec_encode (i := .opEncode cmd args) rfl, exec_encode (i := .opEncode cmd args') rfl, encodeResult,
    encodeResult, encodeLine_congr_take _ cmd hlen htake]

/-- Settles O25: the rows hand the serializer header and payload, and it appends their CRC. -/
theorem requestFrameLayouts : Obligations.RequestFrameLayouts := by
  unfold Obligations.RequestFrameLayouts
  constructor
  · intro a b s
    obtain ⟨t, hexec, hport⟩ := exec_encode_port (i := .reqWrite a b) rfl s
    have hcrc := serialize_crcField (requestPayload .write a b)
    refine ⟨t, _, hexec, hport, serialize_length _, ?_, ?_, ?_, ?_, ?_, hcrc.1, hcrc.2⟩ <;>
      rw [serialize_getElem?_of_lt (by simp)]
    · simp
    · simp
    · simp
    · exact congrArg some (toNat_att a)
    · exact congrArg some (toNat_att b)
  · intro i code s hi
    have hframe : channelOf i = .encode ∧ encodeResult i = .ok (serialize (frameHeader code)) := by
      rcases hi with hi | hi <;> cases hi <;> exact ⟨rfl, rfl⟩
    obtain ⟨hchannel, hresult⟩ := hframe
    obtain ⟨t, hexec, hport⟩ := exec_encode_port hchannel s
    rw [hresult] at hport
    have hcrc := serialize_crcField (frameHeader code)
    refine ⟨t, _, hexec, hport, serialize_length _, ?_, ?_, ?_, hcrc.1, hcrc.2⟩ <;>
      rw [serialize_getElem?_of_lt (by simp), frameHeader_eq]
    · rfl
    · rfl
    · rfl

end Sys2Proof.Machine
end

section
/-! Acknowledgement frames and DECODE: the chunks it accepts are exactly the frames of R63, and what it answers
to chunks that are too short, too long or changed in one byte. -/

namespace Sys2Proof.Machine

/-- The record of the acknowledgement of a kind with two codes (R28, R63, R167). -/
def ackOf (k : Kind) (a b : Code) : Ack where
  magic := magic
  code := codeOf k
  kind := k
  attA := a
  attB := b
  dbA := (a.toNat : Rat) / 2
  dbB := (b.toNat : Rat) / 2
  crc := crc16 (frameHeader (codeOf k) ++ [a.setWidth 8, b.setWidth 8]) 5

theorem exists_lookupCode_codeOf (k : Kind) : ∃ e, lookupCode (codeOf k) = some e ∧ e.kind = k :=
  Option.map_eq_some_iff.mp (lookupCode_codeOf k)

theorem ackOf_consistent (k : Kind) (a b : Code) : (ackOf k a b).consistent = true := by
  simp [Ack.consistent, Ack.payload, ackOf]

/-- The acknowledgement frame byte by byte (R63). -/
theorem serialize_payload_ackOf (k : Kind) (a b : Code) :
    serialize (ackOf k a b).payload = frameHeader (codeOf k) ++
      [a.setWidth 8, b.setWidth 8, hiByte (ackOf k a b).crc, loByte (ackOf k a b).crc] :=
  serialize_eq _

/-- DECODE accepts an acknowledgement frame with the record it was made from (R167). -/
theorem parseAck_serialize (k : Kind) (a b : Code) :
    parseAck (serialize (ackOf k a b).payload) = .ok (ackOf k a b) := by
  obtain ⟨e, he, hkind⟩ := exists_lookupCode_codeOf k
  have hcrc : crc16 (frameHeader (codeOf k) ++ [a.setWidth 8, b.setWidth 8]) 5 =
      joinBytes (hiByte (ackOf k a b).crc) (loByte (ackOf k a b).crc) := (joinBytes_hiByte_loByte _).symm
  rw [serialize_payload_ackOf, parseAck_frame_ok he hcrc (toNat_att_le a) (toNat_att_le b),
    joinBytes_hiByte_loByte, toNat_att, toNat_att, setWidth_att, setWidth_att, hkind]
  rfl

theorem exists_bytes_of_length_eq_seven {rx : List Byte} (h : rx.length = 7) :
    ∃ b0 b1 b2 b3 b4 b5 b6, rx = [b0, b1, b2, b3, b4, b5, b6] := by
  match rx, h with
  | [b0, b1, b2, b3, b4, b5, b6], _ => exact ⟨b0, b1, b2, b3, b4, b5, b6, rfl⟩

/-- R160, R63: a chunk is accepted exactly when it is an acknowledgement frame, with the record of that frame. -/
theorem parseAck_eq_ok_iff {rx : List Byte} {ack : Ack} :
    parseAck rx = .ok ack ↔ ∃ k a b, ack = ackOf k a b ∧ rx = serialize (ackOf k a b).payload := by
  constructor
  · intro h
    obtain ⟨e, hmagic, hcode, hlen, hcrc, hatt, hatt', -⟩ := parseAck_ok h
    obtain ⟨m, m', c, x, y, hi, lo, rfl⟩ := exists_bytes_of_length_eq_seven hlen
    obtain ⟨rfl, rfl⟩ := joinBytes_eq_magic.mp hmagic
    obtain rfl := lookupCode_code hcode
    have hx : (x.setWidth 6 : Code).setWidth 8 = x := setWidth_setWidth_code hatt
    have hy : (y.setWidth 6 : Code).setWidth 8 = y := setWidth_setWidth_code hatt'
    have hfield : (ackOf e.kind (x.setWidth 6) (y.setWidth 6)).crc = joinBytes hi lo := by
      rw [ackOf, hx, hy]
      exact hcrc
    have hframe : [0xAA#8, 0x55#8, codeOf e.kind, x, y, hi, lo] =
        serialize (ackOf e.kind (x.setWidth 6) (y.setWidth 6)).payload := by
      rw [serialize_payload_ackOf, hfield, hx, hy, hiByte_joinBytes, loByte_joinBytes, frameHeader_eq]
      rfl
    refine ⟨e.kind, _, _, ?_, hframe⟩
    rw [hframe, parseAck_serialize] at h
    exact (Except.ok.inj h).symm
  · rintro ⟨k, a, b, rfl, rfl⟩
    exact parseAck_serialize k a b

theorem decResponse_eq_ok_iff {r : Except DecError Ack} {ack : Ack} :
    decResponse r = ⟨.ok, some ack⟩ ↔ r = .ok ack := by
  cases r with
  | ok ack' => simp [decResponse]
  | error e => simp [decResponse]

theorem decResponse_status_eq_ok_iff {r : Except DecError Ack} :
    (decResponse r).status = .ok ↔ ∃ ack, r = .ok ack := by
  cases r with
  | ok ack => simp [decResponse]
  | error e => cases e <;> simp [decResponse, decErrorStatus]

/-- Every chunk gets a response R28 allows. -/
theorem decResponse_parseAck_valid (rx : List Byte) : (decResponse (parseAck rx)).valid = true := by
  cases h : parseAck rx with
  | error e => cases e <;> rfl
  | ok ack =>
    obtain ⟨k, a, b, rfl, -⟩ := parseAck_eq_ok_iff.mp h
    exact ackOf_consistent k a b

/-- A chunk whose response is a record is one the pipeline accepts with that record. -/
theorem parseAck_of_port {rx : List Byte} {s t : State} {ack : Ack} (h : exec (.opDecode rx) s = .next t)
    (hport : t.decodePort = some ⟨.ok, some ack⟩) : parseAck rx = .ok ack := by
  obtain ⟨t', ht', hport'⟩ := exec_decode_port (i := .opDecode rx) rfl s
  rw [h] at ht'
  cases ht'
  rw [hport, Option.some_inj] at hport'
  exact decResponse_eq_ok_iff.mp hport'.symm

/-- A chunk of four bytes or more that is not seven long is refused on its first three bytes alone (R162 to R164). -/
theorem parseAck_of_length_ne_seven {rx : List Byte} (h4 : 4 ≤ rx.length) (h7 : rx.length ≠ 7) :
    parseAck rx = if memRead16 rx 0 ≠ magic then .error .badMagic
      else if lookupCode (memRead8 rx 2) = none then .error .unknownCode else .error .malformedFrame := by
  by_cases hm : memRead16 rx 0 = magic
  · rw [if_neg (not_not.mpr hm)]
    cases hc : lookupCode (memRead8 rx 2) with
    | none => rw [parseAck_unknownCode h4 hm hc, if_pos rfl]
    | some e =>
      rw [parseAck_body h4 hm hc, parseBody, lookupCode_ackLen hc, if_pos h7, if_neg (Option.some_ne_none e)]
  · rw [parseAck_badMagic h4 hm, if_pos hm]

theorem memRead8_take {rx : List Byte} {n off : Nat} (h : off < n) : memRead8 (rx.take n) off = memRead8 rx off := by
  rw [memRead8, memRead8, List.getD_eq_getElem?_getD, List.getD_eq_getElem?_getD, List.getElem?_take_of_lt h]

theorem length_le_seven_iff_of_lengthClass {m n : Nat} (h : lengthClass m = lengthClass n) : m ≤ 7 ↔ n ≤ 7 := by
  unfold lengthClass at h
  split_ifs at h <;> omega

/-- R27 (a): chunks up to seven bytes are read whole, and longer ones only in their header. -/
theorem parseAck_congr_take {rx rx' : List Byte} (hclass : lengthClass rx.length = lengthClass rx'.length)
    (htake : rx.take 7 = rx'.take 7) : parseAck rx = parseAck rx' := by
  have hiff := length_le_seven_iff_of_lengthClass hclass
  by_cases h : rx.length ≤ 7
  · rw [List.take_of_length_le h, List.take_of_length_le (hiff.mp h)] at htake
    rw [htake]
  · have hread {off : Nat} (hoff : off < 7) : memRead8 rx off = memRead8 rx' off := by
      rw [← memRead8_take hoff, htake, memRead8_take hoff]
    rw [parseAck_of_length_ne_seven (by omega) (by omega), parseAck_of_length_ne_seven (by omega) (by omega),
      memRead16, memRead16, hread (by omega), hread (by omega), hread (by omega)]

/-- One changed byte before the CRC field changes the CRC (R165). -/
theorem crc16_payload_set_ne {k : Kind} {a b : Code} {i : Nat} {v : Byte} (hi : i < 5)
    (hv : (ackOf k a b).payload[i]? ≠ some v) :
    crc16 ((ackOf k a b).payload.set i v) 5 ≠
      joinBytes (hiByte (ackOf k a b).crc) (loByte (ackOf k a b).crc) := by
  have hlen : ((ackOf k a b).payload.set i v).length = 5 := by simp [Ack.payload]
  have hcrc : crc16 ((ackOf k a b).payload.set i v) 5 = crcFold crcInit ((ackOf k a b).payload.set i v) := by
    rw [← crc16_length, hlen]
  rw [hcrc, joinBytes_hiByte_loByte]
  exact crcFold_set_ne hi hv crcInit

section
variable (k : Kind) (a b : Code) {v : Byte}

/-- A changed byte of MAGIC (R162). -/
theorem parseAck_set_magic {i : Nat} (hi : i < 2) (hv : (serialize (ackOf k a b).payload)[i]? ≠ some v) :
    parseAck ((serialize (ackOf k a b).payload).set i v) = .error .badMagic := by
  have hlen : 4 ≤ ((serialize (ackOf k a b).payload).set i v).length := by simp [Ack.payload]
  refine parseAck_badMagic hlen (mt memRead16_zero_eq_magic.mp ?_)
  rw [serialize_payload_ackOf, frameHeader_eq] at hv ⊢
  rintro ⟨h0, h1⟩
  interval_cases i
  · exact hv h0.symm
  · exact hv h1.symm

/-- Another code byte that the table does not have (R163). -/
theorem parseAck_set_code_unknown (hv : lookupCode v = none) :
    parseAck ((serialize (ackOf k a b).payload).set 2 v) = .error .unknownCode := by
  rw [serialize_payload_ackOf]
  exact parseAck_header_unknown hv (List.cons_ne_nil _ _)

/-- Another code byte that the table has (R165). -/
theorem parseAck_set_code_known {e : CodeEntry} (he : lookupCode v = some e)
    (hv : (serialize (ackOf k a b).payload)[2]? ≠ some v) :
    parseAck ((serialize (ackOf k a b).payload).set 2 v) = .error .checksumMismatch := by
  rw [serialize_payload_ackOf] at hv ⊢
  exact parseAck_frame_bad_crc he (crc16_payload_set_ne (i := 2) (by decide) hv)

/-- A changed byte after the header (R165). -/
theorem parseAck_set_of_three_le {i : Nat} (h3 : 3 ≤ i) (hi : i < 7)
    (hv : (serialize (ackOf k a b).payload)[i]? ≠ some v) :
    parseAck ((serialize (ackOf k a b).payload).set i v) = .error .checksumMismatch := by
  obtain ⟨e, he, -⟩ := exists_lookupCode_codeOf k
  have hfield {h l : Byte} (hne : ¬ (hiByte (ackOf k a b).crc = h ∧ loByte (ackOf k a b).crc = l)) :
      (ackOf k a b).crc ≠ joinBytes h l := by
    rwa [← joinBytes_hiByte_loByte (ackOf k a b).crc, Ne, joinBytes_inj]
  rw [serialize_payload_ackOf] at hv ⊢
  interval_cases i
  · exact parseAck_frame_bad_crc he (crc16_payload_set_ne (i := 3) (by decide) hv)
  · exact parseAck_frame_bad_crc he (crc16_payload_set_ne (i := 4) (by decide) hv)
  · exact parseAck_frame_bad_crc he (hfield fun h => hv (congrArg some h.1))
  · exact parseAck_frame_bad_crc he (hfield fun h => hv (congrArg some h.2))

end

/-- The frame an instruction on the ENCODE channel is answered with is its result (R131). -/
theorem encodeResult_of_port {i : Instr} {s t : State} {tx : List Byte} (hi : channelOf i = .encode)
    (h : exec i s = .next t) (hport : t.encodePort = some ⟨.ok, tx⟩) : encodeResult i = .ok tx := by
  obtain ⟨t', ht', hport'⟩ := exec_encode_port hi s
  rw [h] at ht'
  cases ht'
  rw [hport, Option.some_inj] at hport'
  cases hr : encodeResult i with
  | ok F => simpa [hr, encResponse, eq_comm] using hport'
  | error e => cases e <;> simp [hr, encResponse, encErrorStatus] at hport'

end Sys2Proof.Machine
end

section
/-! The statements about DECODE: short and changed chunks, the frames it accepts, and frames sent and echoed. -/

namespace Sys2Proof.Machine

/-- Settles O39: below seven bytes the last check a chunk can reach is that of its length. -/
theorem shortChunks : Obligations.ShortChunks := by
  unfold Obligations.ShortChunks
  intro rx s h7
  obtain ⟨t, hexec, hport⟩ := exec_decode_port (i := .opDecode rx) rfl s
  refine ⟨t, _, hexec, hport, ?_, ?_⟩ <;> rw [chunkOf]
  · intro h4
    rw [parseAck_incomplete h4]
    rfl
  · intro h4
    rw [parseAck_of_length_ne_seven h4 h7.ne]
    split
    · exact .inl rfl
    split
    · exact .inr (.inl rfl)
    · exact .inr (.inr rfl)

/-- Settles O41: the status is OK exactly on acknowledgement frames. -/
theorem decodeAcceptsExactlyAckFrames : Obligations.DecodeAcceptsExactlyAckFrames := by
  unfold Obligations.DecodeAcceptsExactlyAckFrames
  intro rx s
  obtain ⟨t, hexec, hport⟩ := exec_decode_port (i := .opDecode rx) rfl s
  refine ⟨t, _, hexec, hport, ?_⟩
  rw [decResponse_status_eq_ok_iff, chunkOf]
  constructor
  · rintro ⟨ack, hack⟩
    obtain ⟨k, a, b, -, rfl⟩ := parseAck_eq_ok_iff.mp hack
    exact ⟨k, a, b, _, rfl, by rw [serialize_payload_ackOf, ackOf, frameHeader_eq]; rfl⟩
  · rintro ⟨k, a, b, P, rfl, rfl⟩
    refine ⟨ackOf k a b, ?_⟩
    rw [← parseAck_serialize, serialize_payload_ackOf, ackOf, frameHeader_eq]
    rfl

/-- Settles O42: a changed byte before the CRC field changes the CRC computed, one in the field the CRC read. -/
theorem oneChangedByteIsCaught : Obligations.OneChangedByteIsCaught := by
  unfold Obligations.OneChangedByteIsCaught
  constructor
  · intro code a b h l s hcode hcrc
    obtain ⟨e, he⟩ := exists_lookupCode hcode
    obtain ⟨t, hexec, hport⟩ := exec_decode_port (i := .opDecode [0xAA#8, 0x55#8, code, a, b, h, l]) rfl s
    have hparse := parseAck_frame_bad_crc (a := a) (b := b) (h := h) (l := l) he (by rw [frameHeader_eq]; exact hcrc)
    rw [frameHeader_eq] at hparse
    refine ⟨t, hexec, ?_⟩
    rw [hport, chunkOf]
    exact congrArg (fun r => some (decResponse r)) hparse
  · intro rx s t ack i v hexec hport hi hv
    obtain ⟨k, a, b, -, rfl⟩ := parseAck_eq_ok_iff.mp (parseAck_of_port hexec hport)
    obtain ⟨t', hexec', hport'⟩ :=
      exec_decode_port (i := .opDecode ((serialize (ackOf k a b).payload).set i v)) rfl s
    refine ⟨t', hexec', ?_, ?_, ?_, ?_⟩
    · intro h3
      rw [hport', chunkOf, parseAck_set_of_three_le k a b h3 hi hv]
      rfl
    · intro h2
      rw [hport', chunkOf, parseAck_set_magic k a b h2 hv]
      rfl
    · rintro rfl hcode
      simp only [List.mem_cons, List.not_mem_nil, or_false, not_or] at hcode
      obtain ⟨h1, h2, h8⟩ := hcode
      rw [hport', chunkOf, parseAck_set_code_unknown k a b (lookupCode_eq_none h1 h2 h8)]
      rfl
    · rintro rfl hcode
      obtain ⟨e, he⟩ := exists_lookupCode hcode
      rw [hport', chunkOf, parseAck_set_code_known k a b he hv]
      rfl

/-- Settles O43: five bytes are no acknowledgement, and the Write request is laid out as the Write acknowledgement. -/
theorem requestFramesFedToDecode : Obligations.RequestFramesFedToDecode := by
  unfold Obligations.RequestFramesFedToDecode
  constructor
  · intro i s t tx hi hexec hport
    have hshort (k : Kind) (hresult : encodeResult i = .ok (serialize (frameHeader (codeOf k))))
        (hc : channelOf i = .encode) : parseAck tx = .error .malformedFrame := by
      obtain ⟨e, he, -⟩ := exists_lookupCode_codeOf k
      have htx := encodeResult_of_port hc hexec hport
      rw [hresult] at htx
      obtain rfl := Except.ok.inj htx
      rw [serialize_eq]
      exact parseAck_header_bad_length he (List.cons_ne_nil _ _) (by simp)
    have hmalformed : parseAck tx = .error .malformedFrame := by
      rcases hi with rfl | rfl
      · exact hshort .read rfl rfl
      · exact hshort .save rfl rfl
    obtain ⟨t', hexec', hport'⟩ := exec_decode_port (i := .opDecode tx) rfl t
    refine ⟨t', hexec', ?_⟩
    rw [hport', chunkOf, hmalformed]
    rfl
  · intro a b s t tx hexec hport
    obtain rfl : serialize (ackOf .write a b).payload = tx :=
      Except.ok.inj (encodeResult_of_port (i := .reqWrite a b) rfl hexec hport)
    obtain ⟨t', hexec', hport'⟩ := exec_decode_port (i := .opDecode _) rfl t
    rw [chunkOf, parseAck_serialize] at hport'
    exact ⟨t', _, hexec', hport', rfl, rfl, rfl⟩

/-- Settles O44: the codes sent are within a quarter dB of the operands, and they are the codes of the echo. -/
theorem echoedWriteIsWithinAQuarterDb : Obligations.EchoedWriteIsWithinAQuarterDb := by
  unfold Obligations.EchoedWriteIsWithinAQuarterDb
  intro qa qb s ha0 ha1 hb0 hb1
  obtain ⟨t, hexec, hport⟩ := exec_encode_port (i := .opEncode (some 0x77#8) [.num qa, .num qb]) rfl s
  have hwrite := encodeWrite_ok (dbToCode_in_range (tie := Config.tieRule) ha0 ha1) (dbToCode_in_range hb0 hb1)
  rw [encodeResult, encodeLine_known (discriminate_write rfl), encodeKind, hwrite] at hport
  obtain ⟨t', hexec', hport'⟩ := exec_decode_port (i := .opDecode (serialize (ackOf .write _ _).payload)) rfl t
  rw [chunkOf, parseAck_serialize] at hport'
  exact ⟨t, _, t', _, hexec, hport, hexec', hport', rfl, abs_half_code_sub_le (ofInt_roundT_toNat _ ha0 ha1),
    abs_half_code_sub_le (ofInt_roundT_toNat _ hb0 hb1)⟩

/-- Settles O45: DECODE's result is the same for both chunks. -/
theorem decodeReadsClassAndSevenBytes : Obligations.DecodeReadsClassAndSevenBytes := by
  unfold Obligations.DecodeReadsClassAndSevenBytes
  intro rx rx' s hclass htake
  rw [exec_decode (i := .opDecode rx) rfl, exec_decode (i := .opDecode rx') rfl, chunkOf, chunkOf,
    parseAck_congr_take hclass htake]

/-- Settles O46: both pieces are shorter than an acknowledgement; the first keeps the header, and the rest is
read from its own first byte. -/
theorem splitFrames : Obligations.SplitFrames := by
  unfold Obligations.SplitFrames
  intro rx s t ack i hexec hport h1 h6
  obtain ⟨k, a, b, -, rfl⟩ := parseAck_eq_ok_iff.mp (parseAck_of_port hexec hport)
  obtain ⟨e, he, -⟩ := exists_lookupCode_codeOf k
  have hlen : (serialize (ackOf k a b).payload).length = 7 := by simp [Ack.payload]
  obtain ⟨t1, hexec1, hport1⟩ := exec_decode_port (i := .opDecode ((serialize (ackOf k a b).payload).take i)) rfl s
  obtain ⟨t2, hexec2, hport2⟩ := exec_decode_port (i := .opDecode ((serialize (ackOf k a b).payload).drop i)) rfl s
  refine ⟨t1, t2, _, _, hexec1, hport1, hexec2, hport2, ?_, ?_, ?_, ?_⟩ <;> rw [chunkOf]
  · intro h4
    rw [parseAck_incomplete (by rw [List.length_take, hlen]; omega)]
    rfl
  · intro h4
    rw [serialize_payload_ackOf, List.take_append, List.take_of_length_le (by simp; omega),
      parseAck_header_bad_length he]
    · rfl
    · exact List.ne_nil_of_length_pos (by simp; omega)
    · simp
      omega
  · intro h4
    rw [parseAck_incomplete (by rw [List.length_drop, hlen]; omega)]
    rfl
  · intro h4 hmagic
    rw [parseAck_badMagic (by rw [List.length_drop, hlen]; omega) (mt memRead16_zero_eq_magic.mp hmagic)]
    rfl

end Sys2Proof.Machine
end

section
/-! The ports' invariant, and the frame of each instruction. -/

namespace Sys2Proof.Machine

theorem portsValid_iff (s : State) :
    s.portsValid = true ↔ s.encodePort.all EncResp.valid = true ∧ s.decodePort.all DecResp.valid = true ∧
      s.d2cPort.all D2cResp.valid = true ∧ s.c2dPort.all validDb = true := by
  simp only [State.portsValid, Bool.and_eq_true, and_assoc]

/-- D2C answers a code, or InvalidArgument without one (R29, R122). -/
theorem d2cResponse_dbToCode_valid (tie : TieRule) (v : Operand) : (d2cResponse (dbToCode tie v)).valid = true := by
  cases h : dbToCode tie v with
  | ok c => rfl
  | error e =>
    obtain rfl := dbToCode_error h
    rfl

/-- C2D answers a multiple of 0.5 up to 31.5 (R30, R171). -/
theorem codeToDb_validDb (c : Code) : validDb (codeToDb c) = true := by
  have hc : c.toNat ≤ 63 := Nat.le_of_lt_succ c.isLt
  have hle : (c.toNat : Rat) ≤ 63 := by exact_mod_cast hc
  have hint : 2 * codeToDb c = (c.toNat : Rat) := by
    rw [codeToDb]
    ring
  have hlow : 0 ≤ codeToDb c := by
    rw [codeToDb]
    positivity
  have hhigh : codeToDb c ≤ 63 / 2 := by
    rw [codeToDb]
    linarith
  simp only [validDb, hint, hlow, hhigh, Rat.den_natCast, decide_true, beq_self_eq_true, Bool.and_self]

/-- Every instruction delivers a response the spec allows, and keeps the other ports. -/
theorem exec_keeps_portsValid {i : Instr} {s t : State} (hs : s.portsValid = true) (h : exec i s = .next t) :
    t.portsValid = true := by
  rw [portsValid_iff] at hs ⊢
  obtain ⟨henc, hdec, hd2c, hc2d⟩ := hs
  rcases exec_next_cases h with ⟨hc, rfl⟩ | ⟨-, rfl⟩ | ⟨_, _, -, -, rfl⟩ | ⟨v, -, rfl⟩ | ⟨c, -, rfl⟩
  · exact ⟨encResponse_encodeResult_valid hc, hdec, hd2c, hc2d⟩
  · exact ⟨henc, decResponse_parseAck_valid _, hd2c, hc2d⟩
  · exact ⟨henc, hdec, hd2c, hc2d⟩
  · exact ⟨henc, hdec, d2cResponse_dbToCode_valid _ v, hc2d⟩
  · exact ⟨henc, hdec, hd2c, codeToDb_validDb c⟩

/-- Settles O15: an idle step keeps the state, and any other delivers one valid response. -/
theorem everyStepKeepsPortsValid : Obligations.EveryStepKeepsPortsValid := by
  unfold Obligations.EveryStepKeepsPortsValid
  intro s t hs h
  rcases step_next_cases h with ⟨-, rfl⟩ | ⟨r, rest, i, -, -, he⟩
  · exact hs
  · exact exec_keeps_portsValid (s := { s with pending := rest }) hs he

/-- Settles O14: after reset no port shows a response. -/
theorem portsValidAtReset : Obligations.PortsValidAtReset := by
  unfold Obligations.PortsValidAtReset
  exact (portsValid_iff _).mpr ⟨rfl, rfl, rfl, rfl⟩

/-- Settles O12: the numbers status by status, and the field mapper's one error for D2C. -/
theorem statusNumbers : Obligations.StatusNumbers := by
  unfold Obligations.StatusNumbers
  refine ⟨⟨rfl, rfl, rfl⟩, ⟨rfl, rfl, rfl, rfl, rfl, rfl⟩, ?_, ?_, ?_⟩
  · intro e
    cases e <;> decide
  · intro d
    cases d <;> decide
  · intro v s
    refine ⟨_, _, exec_opD2c v s, rfl, fun hunknown => ?_⟩
    have hvalid := d2cResponse_dbToCode_valid Config.tieRule v
    rw [D2cResp.valid, hunknown] at hvalid
    cases hvalid

/-- Settles O47: all these rows deliver on the ENCODE channel. -/
theorem encodeRowsFrame : Obligations.EncodeRowsFrame := by
  unfold Obligations.EncodeRowsFrame
  intro i s t hi h
  have hc : channelOf i = .encode := by
    rcases hi with ⟨_, _, rfl | rfl | rfl⟩ | ⟨_, _, rfl | rfl | rfl⟩ | ⟨_, _, rfl⟩ <;> rfl
  rw [exec_encode hc] at h
  cases h
  exact ⟨rfl, rfl, rfl, rfl, rfl, rfl⟩

/-- Settles O48: all these rows deliver on the DECODE channel. -/
theorem decodeRowsFrame : Obligations.DecodeRowsFrame := by
  unfold Obligations.DecodeRowsFrame
  intro i s t bs hi h
  have hc : channelOf i = .decode := by
    rcases hi with rfl | rfl | rfl | rfl <;> rfl
  rw [exec_decode hc] at h
  cases h
  exact ⟨rfl, rfl, rfl, rfl, rfl, rfl, rfl⟩

/-- Settles O49: the three deliveries, field by field. -/
theorem checksumAndConversionFrame : Obligations.ChecksumAndConversionFrame := by
  unfold Obligations.ChecksumAndConversionFrame
  intro s t
  refine ⟨?_, ?_, ?_⟩
  · intro buf n h
    rw [exec_opCrc16_of_le (of_decide_eq_true (contractKept_of_next h))] at h
    cases h
    exact ⟨rfl, rfl, rfl, rfl, rfl, rfl, rfl⟩
  · intro v h
    cases h
    exact ⟨rfl, rfl, rfl, rfl, rfl, rfl, rfl, rfl⟩
  · intro c h
    cases h
    exact ⟨rfl, rfl, rfl, rfl, rfl, rfl, rfl, rfl⟩

end Sys2Proof.Machine
end
